-- ==== Sys2Proof/Word.lean ====
section
/-! DEFINITION. The word types of the CEB: bytes, byte strings, bus words and bus addresses. -/

namespace Sys2Proof

/-- A byte. -/
abbrev Byte := BitVec 8

/-- A byte string, byte 0 first (00_scope.md section 5). -/
abbrev Bytes := List Byte

/-- A word: 32 bits, the width of a register and of a bus access (`XLEN`, R6). -/
abbrev Word := BitVec 32

/-- An address: 18 bits, a byte address of the register space (`ALEN`, R6, R50). -/
abbrev Addr := BitVec 18

end Sys2Proof
end

