-- ==== Sys2Proof/Config.lean ====
section
/-! DEFINITION. The parameters of the CEB (R6): the one open parameter, the buffer capacity, and the constants. -/

namespace Sys2Proof

/-- What an implementation of the CEB fixes. `bufUnits` holds the open parameter `BUF_BYTES` of R6 in the one
form that admits exactly the legal values: `BUF_BYTES = 64 + 16 * bufUnits`, a multiple of 16 from 64 to 65520
(DESIGN CHOICE, log 1). -/
structure Config where
  bufUnits : Fin 4092
  deriving DecidableEq, Repr

/-- R6, D4: the capacity `BUF_BYTES` of each of the buffers DIN and DOUT, in bytes. -/
def Config.bufBytes (cfg : Config) : Nat := 64 + 16 * cfg.bufUnits.val

/-- R6: the default, `BUF_BYTES = 1024`. -/
def Config.default : Config := { bufUnits := 60 }

/-- R37: the identification word `ID_VALUE`. -/
def idValue : Word := 0x4C4C4107

end Sys2Proof
end

