-- ==== Sys2Proof/Syntax.lean ====
section
/-! DEFINITION. The twelve commands of R84, one constructor for each row of the opcode table, and their operand types. -/

namespace Sys2Proof

/-- R21, R81: the context select. `s` is `CTX = 0`, the session context; `x` is `CTX = 1`, the auxiliary context. -/
inductive CtxSel where
  | s
  | x
  deriving DecidableEq, Repr

/-- R22: the four key types. -/
inductive KeyType where
  | des
  | tdes2
  | tdes3
  | aes
  deriving DecidableEq, Repr

/-- R82, R84: the commands with the fields each format uses. `len` is the byte count of R83, a natural number. -/
inductive Instr where
  /-- R112 -/
  | nop
  /-- R113 -/
  | clrctx (c : CtxSel)
  /-- R114 -/
  | loadkey (c : CtxSel) (kt : KeyType)
  /-- R142 -/
  | ecbEnc (c : CtxSel) (len : Nat)
  /-- R143 -/
  | ecbDec (c : CtxSel) (len : Nat)
  /-- R165 -/
  | cbcEnc (c : CtxSel) (uiv ziv pad : Bool) (len : Nat)
  /-- R166 -/
  | cbcDec (c : CtxSel) (uiv ziv : Bool) (len : Nat)
  /-- R167 -/
  | cbcMac (c : CtxSel) (uiv ziv pad : Bool) (len : Nat)
  /-- R187 -/
  | subk (c : CtxSel)
  /-- R188 -/
  | cmac (c : CtxSel) (uiv ziv vfy : Bool) (len : Nat)
  /-- R207 -/
  | crc16 (cont app : Bool) (len : Nat)
  /-- R208 -/
  | crc32 (cont app : Bool) (len : Nat)
  deriving DecidableEq, Repr

end Sys2Proof
end

