-- ==== Sys2Proof/WellFormed.lean ====
section
/-! DEFINITION. Which terms of Instr stand for a command word. -/

namespace Sys2Proof

/-- R83: `LEN` is a byte count from 0 to 65535. -/
def lenFits (len : Nat) : Bool := len < 65536

/-- A command is well formed when its `LEN` fits the 16 bits of `ARG` (R81, R83). Context, key type and flags fit by
their types. -/
def Instr.wellFormed : Instr → Bool
  | .nop => true
  | .clrctx _ => true
  | .loadkey _ _ => true
  | .ecbEnc _ len => lenFits len
  | .ecbDec _ len => lenFits len
  | .cbcEnc _ _ _ _ len => lenFits len
  | .cbcDec _ _ _ len => lenFits len
  | .cbcMac _ _ _ _ len => lenFits len
  | .subk _ => true
  | .cmac _ _ _ _ len => lenFits len
  | .crc16 _ _ len => lenFits len
  | .crc32 _ _ len => lenFits len

end Sys2Proof
end

