-- ==== Sys2Proof/Decode.lean ====
section
/-! DEFINITION. The decoder of command words, total, rejecting by name (R80 to R86, R90), and after it the encoder. -/

namespace Sys2Proof

/-- Why a word is not a command. R86 gives all of them one effect, `E_ILLCMD`; the names are the model's (log 11). -/
inductive Illegal where
  /-- The `OP` byte is in no row of R84. -/
  | unknownOpcode
  /-- Bit 15 is set. -/
  | reservedBit
  /-- A flag the opcode does not take is set. -/
  | flagNotAllowed
  /-- `ARG` is out of the opcode's range. -/
  | argOutOfRange
  deriving DecidableEq, Repr

/-! ### The fields of a command word (R81) -/

/-- R81: `OP`, bits 7:0. -/
def fieldOp (cw : Word) : BitVec 8 := cw.extractLsb' 0 8

/-- R81: `CTX`, bit 8. -/
def fieldCtx (cw : Word) : CtxSel := if cw.getLsbD 8 then .x else .s

/-- R81: `UIV`, bit 9. -/
def fieldUiv (cw : Word) : Bool := cw.getLsbD 9

/-- R81: `ZIV`, bit 10. -/
def fieldZiv (cw : Word) : Bool := cw.getLsbD 10

/-- R81: `PAD`, bit 11. -/
def fieldPad (cw : Word) : Bool := cw.getLsbD 11

/-- R81: `CONT`, bit 12. -/
def fieldCont (cw : Word) : Bool := cw.getLsbD 12

/-- R81: `VFY`, bit 13. -/
def fieldVfy (cw : Word) : Bool := cw.getLsbD 13

/-- R81: `APP`, bit 14. -/
def fieldApp (cw : Word) : Bool := cw.getLsbD 14

/-- R81, R83: `LEN = zext(cw[31:16])`. -/
def fieldLen (cw : Word) : Nat := (cw.extractLsb' 16 16).toNat

/-- R22: the key type with a given number. -/
def KeyType.ofCode (n : Nat) : KeyType :=
  match n with
  | 0 => .des
  | 1 => .tdes2
  | 2 => .tdes3
  | _ => .aes

/-- R22: the number of a key type. -/
def KeyType.code : KeyType → BitVec 2
  | .des => 0
  | .tdes2 => 1
  | .tdes3 => 2
  | .aes => 3

/-- R81, R83: `KT = cw[17:16]`. -/
def fieldKt (cw : Word) : KeyType := KeyType.ofCode (cw.extractLsb' 16 2).toNat

/-! ### The opcode table (R84, R85) -/

/-- A row of R85: the mnemonic, the opcode of R84, the flags among `cw[15:8]` that may be 1, the largest `ARG`,
the mask and match over the whole word, and the command read from a word of the row. -/
structure Row where
  mnemonic : String
  op : BitVec 8
  allowed : BitVec 8
  argMax : Nat
  mask : Word
  pattern : Word
  build : Word → Instr

/-- R84, R85: the twelve rows. -/
def rows : List Row :=
  [ { mnemonic := "NOP", op := 0x00, allowed := 0x00, argMax := 0, mask := 0xFFFFFFFF, pattern := 0x00000000,
      build := fun _ => .nop },
    { mnemonic := "CLRCTX", op := 0x01, allowed := 0x01, argMax := 0, mask := 0xFFFFFEFF, pattern := 0x00000001,
      build := fun cw => .clrctx (fieldCtx cw) },
    { mnemonic := "LOADKEY", op := 0x02, allowed := 0x01, argMax := 3, mask := 0xFFFCFEFF, pattern := 0x00000002,
      build := fun cw => .loadkey (fieldCtx cw) (fieldKt cw) },
    { mnemonic := "ECB.ENC", op := 0x10, allowed := 0x01, argMax := 65535, mask := 0x0000FEFF, pattern := 0x00000010,
      build := fun cw => .ecbEnc (fieldCtx cw) (fieldLen cw) },
    { mnemonic := "ECB.DEC", op := 0x11, allowed := 0x01, argMax := 65535, mask := 0x0000FEFF, pattern := 0x00000011,
      build := fun cw => .ecbDec (fieldCtx cw) (fieldLen cw) },
    { mnemonic := "CBC.ENC", op := 0x20, allowed := 0x0F, argMax := 65535, mask := 0x0000F0FF, pattern := 0x00000020,
      build := fun cw => .cbcEnc (fieldCtx cw) (fieldUiv cw) (fieldZiv cw) (fieldPad cw) (fieldLen cw) },
    { mnemonic := "CBC.DEC", op := 0x21, allowed := 0x07, argMax := 65535, mask := 0x0000F8FF, pattern := 0x00000021,
      build := fun cw => .cbcDec (fieldCtx cw) (fieldUiv cw) (fieldZiv cw) (fieldLen cw) },
    { mnemonic := "CBC.MAC", op := 0x22, allowed := 0x0F, argMax := 65535, mask := 0x0000F0FF, pattern := 0x00000022,
      build := fun cw => .cbcMac (fieldCtx cw) (fieldUiv cw) (fieldZiv cw) (fieldPad cw) (fieldLen cw) },
    { mnemonic := "SUBK", op := 0x30, allowed := 0x01, argMax := 0, mask := 0xFFFFFEFF, pattern := 0x00000030,
      build := fun cw => .subk (fieldCtx cw) },
    { mnemonic := "CMAC", op := 0x31, allowed := 0x27, argMax := 65535, mask := 0x0000D8FF, pattern := 0x00000031,
      build := fun cw => .cmac (fieldCtx cw) (fieldUiv cw) (fieldZiv cw) (fieldVfy cw) (fieldLen cw) },
    { mnemonic := "CRC16", op := 0x40, allowed := 0x50, argMax := 65535, mask := 0x0000AFFF, pattern := 0x00000040,
      build := fun cw => .crc16 (fieldCont cw) (fieldApp cw) (fieldLen cw) },
    { mnemonic := "CRC32", op := 0x41, allowed := 0x50, argMax := 65535, mask := 0x0000AFFF, pattern := 0x00000041,
      build := fun cw => .crc32 (fieldCont cw) (fieldApp cw) (fieldLen cw) } ]

/-- R85: a word is a row's command exactly when `(cw and mask) = match`. -/
def Row.fits (r : Row) (cw : Word) : Bool := cw &&& r.mask == r.pattern

/-- R85, the other wording: the word's flags are among the row's allowed ones, and its `ARG` is in the row's range. -/
def Row.legal (r : Row) (cw : Word) : Bool :=
  fieldOp cw == r.op && cw.extractLsb' 8 8 &&& ~~~r.allowed == 0 && fieldLen cw ≤ r.argMax

/-- The name of the reason a word is illegal (R86, log 11). -/
def whyIllegal (cw : Word) : Illegal :=
  match rows.find? (fun r => fieldOp cw == r.op) with
  | none => .unknownOpcode
  | some r =>
    if cw.getLsbD 15 then .reservedBit
    else if cw.extractLsb' 8 8 &&& ~~~r.allowed == 0 then .argOutOfRange
    else .flagNotAllowed

/-- R90: the decoder, total on all 32-bit words; it reads no state. -/
def decode (cw : Word) : Except Illegal Instr :=
  match rows.find? (fun r => r.fits cw) with
  | some r => .ok (r.build cw)
  | none => .error (whyIllegal cw)

/-- What the decoder reads from an instruction whose bits are `w`, bit 0 the least significant. Every command is one
32-bit word (R80), so bits above `nbits` are 0 and bits above 31 do not exist. -/
def decodeTableWord (nbits w : Nat) : Option Instr :=
  match decode (BitVec.ofNat 32 (w % 2 ^ nbits)) with
  | .ok i => some i
  | .error _ => none

/-! ### The encoder (R81, R82, R87) -/

/-- R81: the `CTX` bit. -/
def CtxSel.bit : CtxSel → Bool
  | .s => false
  | .x => true

/-- R81: a command word from its fields, most significant first: ARG, bit 15, APP, VFY, CONT, PAD, ZIV, UIV, CTX, OP. -/
def packWord (op : BitVec 8) (ctx uiv ziv pad cont vfy app : Bool) (arg : BitVec 16) : Word :=
  arg ++ 0#1 ++ BitVec.ofBool app ++ BitVec.ofBool vfy ++ BitVec.ofBool cont ++ BitVec.ofBool pad ++
    BitVec.ofBool ziv ++ BitVec.ofBool uiv ++ BitVec.ofBool ctx ++ op

/-- R82, R84, R87: the command word of a well-formed command; a field its format does not use is 0. -/
def encode : Instr → Word
  | .nop => packWord 0x00 false false false false false false false 0
  | .clrctx c => packWord 0x01 c.bit false false false false false false 0
  | .loadkey c kt => packWord 0x02 c.bit false false false false false false (kt.code.setWidth 16)
  | .ecbEnc c len => packWord 0x10 c.bit false false false false false false (BitVec.ofNat 16 len)
  | .ecbDec c len => packWord 0x11 c.bit false false false false false false (BitVec.ofNat 16 len)
  | .cbcEnc c uiv ziv pad len => packWord 0x20 c.bit uiv ziv pad false false false (BitVec.ofNat 16 len)
  | .cbcDec c uiv ziv len => packWord 0x21 c.bit uiv ziv false false false false (BitVec.ofNat 16 len)
  | .cbcMac c uiv ziv pad len => packWord 0x22 c.bit uiv ziv pad false false false (BitVec.ofNat 16 len)
  | .subk c => packWord 0x30 c.bit false false false false false false 0
  | .cmac c uiv ziv vfy len => packWord 0x31 c.bit uiv ziv false false vfy false (BitVec.ofNat 16 len)
  | .crc16 cont app len => packWord 0x40 false false false false cont false app (BitVec.ofNat 16 len)
  | .crc32 cont app len => packWord 0x41 false false false false cont false app (BitVec.ofNat 16 len)

end Sys2Proof
end

