-- ==== Sys2Proof/Machine/State.lean ====
section
/-! DEFINITION. The state of the CEB (R20), what surrounds it, and the state after reset (R41). -/

namespace Sys2Proof.Machine

/-- A buffer's contents: (byte index, byte) pairs, indexes strictly rising, no byte 0 listed (log 8). -/
abbrev Memory := List Host.Cell

/-- R21: a key context. -/
structure Ctx where
  /-- key valid -/
  kv : Bool
  /-- key type -/
  kt : KeyType
  /-- raw key material, bytes `0..klen(kt)-1` significant -/
  key : Vector Byte 24
  /-- the carried IV, bytes `0..bs(kt)-1` significant -/
  iv : Vector Byte 16
  deriving DecidableEq, Repr

/-- R41: a context after reset, and after CLRCTX (R113). -/
def Ctx.clear : Ctx := { kv := false, kt := .des, key := Vector.replicate 24 0, iv := Vector.replicate 16 0 }

/-- R20: the complete state of the CEB, exactly the components of that rule. -/
structure Ceb where
  /-- `ctx[0]`, the session context `S` (R21) -/
  ctxS : Ctx
  /-- `ctx[1]`, the auxiliary context `X` (R21) -/
  ctxX : Ctx
  /-- `KEYIN`, the key staging register (R27) -/
  keyin : Vector Byte 24
  /-- `K1` (R28) -/
  k1 : Vector Byte 16
  /-- `K2` (R28) -/
  k2 : Vector Byte 16
  /-- `MAC` (R29) -/
  mac : Vector Byte 16
  /-- `MACLEN` (R29) -/
  maclen : BitVec 5
  /-- `EXPECT` (R30) -/
  expect : Vector Byte 16
  /-- `crc16_acc` (R31) -/
  crc16Acc : BitVec 16
  /-- `crc32_acc`, before finalization (R32) -/
  crc32Acc : BitVec 32
  /-- `DIN` (R33) -/
  din : Memory
  /-- `DOUT` (R34) -/
  dout : Memory
  /-- `OUTLEN` (R34) -/
  outlen : BitVec 16
  /-- `busy` (R35) -/
  busy : Bool
  /-- `done` (R35) -/
  done : Bool
  /-- `err` (R35) -/
  err : Bool
  /-- `wib`, a host write was ignored (R35, R69) -/
  wib : Bool
  /-- `errcode` (R35, R220) -/
  errcode : BitVec 8
  /-- `cmd_cur`, the command word in flight or last accepted (R38) -/
  cmdCur : Word
  /-- `ie_done` (R36) -/
  ieDone : Bool
  /-- `ie_err` (R36) -/
  ieErr : Bool
  deriving DecidableEq, Repr

/-- R41, R250: every element of the CEB after reset. -/
def Ceb.reset : Ceb where
  ctxS := Ctx.clear
  ctxX := Ctx.clear
  keyin := Vector.replicate 24 0
  k1 := Vector.replicate 16 0
  k2 := Vector.replicate 16 0
  mac := Vector.replicate 16 0
  maclen := 0
  expect := Vector.replicate 16 0
  crc16Acc := 0x6363
  crc32Acc := 0xFFFFFFFF
  din := []
  dout := []
  outlen := 0
  busy := false
  done := false
  err := false
  wib := false
  errcode := 0
  cmdCur := 0
  ieDone := false
  ieErr := false

/-- R220: the error kinds of a command. -/
inductive ErrKind where
  | illcmd
  | state
  | length
  | integrity
  deriving DecidableEq, Repr

/-- R52: why a bus access gets the error response. The spec has one response; the two names are the model's (log 6). -/
inductive BusError where
  /-- the address is not a multiple of 4 -/
  | misaligned
  /-- the address is in no row of R51 -/
  | unmapped
  deriving DecidableEq, Repr

/-- What the bus answers a host access (R52, R55, R56). -/
inductive Reply where
  /-- the word a read returns -/
  | data (w : Word)
  /-- the normal response to a write -/
  | ack
  /-- the error response -/
  | error (e : BusError)
  deriving DecidableEq, Repr

/-- One step of one agent (R3, R64), or an assertion of the reset input (R250). -/
inductive Event where
  /-- the host reads the word at an address (R52, R55) -/
  | hostRead (a : Addr)
  /-- the host writes a word to an address (R52, R56) -/
  | hostWrite (a : Addr) (v : Word)
  /-- the engine may take its completion step (R111) -/
  | engine
  /-- the reset input is asserted (R250, log 9) -/
  | rst
  deriving DecidableEq, Repr

/-- The machine: the CEB, and what is not the CEB but surrounds it. -/
structure State extends Ceb where
  /-- the implementation's parameter (R6), which no step changes (log 1) -/
  cfg : Config
  /-- the coming steps of the agents, in the order they happen (R64); when it is empty the engine acts (log 2) -/
  agenda : List Event
  /-- what the bus answered the host, newest first (log 3) -/
  replies : List Reply
  deriving DecidableEq, Repr

/-- Why the machine stops. Nothing in spec/ stops it: an error of a command is recorded in STATUS (R111, R227) and a
bad access is answered with the error response (R52). So there is no fault, nobody raises one, and that is safe (log 5). -/
inductive Fault where
  deriving DecidableEq, Repr

/-- Why an instruction has no meaning here. -/
inductive Refusal where
  /-- Raised by an arm of exec whose instruction has no meaning yet (no arm does); safe: nothing can be proved of it. -/
  | notModelled (mnemonic : String)
  deriving DecidableEq, Repr

/-- R41: the machine right after reset, with the default buffer size (R6, log 1), nothing scheduled and nothing answered. -/
def State.reset : State :=
  { Ceb.reset with cfg := Config.default, agenda := [], replies := [] }

end Sys2Proof.Machine
end

