-- ==== Sys2Proof/Machine/Ops.lean ====
section
/-! DEFINITION. The named operations over byte strings, buffers, registers and contexts, and the end of a command:
how an error is recorded (R111, R227) and how the host takes it back (R58, R228). -/

namespace Sys2Proof.Machine

/-! ### Byte strings (00_scope.md section 5) -/

/-- `0^n`. -/
def zeros (n : Nat) : Bytes := List.replicate n 0

/-- A byte string built by index. -/
def byteTable (n : Nat) (f : Nat → Byte) : Bytes := (List.range n).map f

/-- The bytes `B ‖ 0^(n - len B)` as a register of `n` bytes. -/
def fixBytes (n : Nat) (b : Bytes) : Vector Byte n := Vector.ofFn fun i => b.getD i.val 0

/-- `A xor B`, bytewise. -/
def xorBytes (a b : Bytes) : Bytes := List.zipWith (fun x y => x ^^^ y) a b

/-- `be(B)`: byte 0 is the most significant. -/
def be (b : Bytes) : Nat := b.foldl (fun acc x => 256 * acc + x.toNat) 0

/-- `be_n(v)`. -/
def beBytes (n v : Nat) : Bytes := byteTable n fun i => BitVec.ofNat 8 (v / 256 ^ (n - 1 - i))

/-- `le_n(v)`: byte `j` is `v[8j+7:8j]`. -/
def leBytes {w : Nat} (n : Nat) (v : BitVec w) : Bytes := byteTable n fun j => v.extractLsb' (8 * j) 8

/-- R54: the blocks `M[i*bs .. (i+1)*bs)` of a message, for `i` below `len(M) / bs`. -/
def blocks (bs : Nat) (m : Bytes) : List Bytes := (List.range (m.length / bs)).map fun i => (m.drop (i * bs)).take bs

/-! ### Byte lanes (R53) -/

/-- R53: lane `j` of a word, bits `8j+7:8j`. -/
def lane (v : Word) (j : Nat) : Byte := v.extractLsb' (8 * j) 8

/-- R53: the word whose lanes 0 to 3 are given. -/
def ofLanes (b0 b1 b2 b3 : Byte) : Word := b3 ++ b2 ++ b1 ++ b0

/-- R53, R55: the word at byte offset `k` of a byte-string register. -/
def loadLanes {n : Nat} (r : Vector Byte n) (k : Nat) : Word :=
  ofLanes (r.getD k 0) (r.getD (k + 1) 0) (r.getD (k + 2) 0) (r.getD (k + 3) 0)

/-- R53, R56, R60: the register after a word is written at byte offset `k`, where only bytes below `limit` keep what is
written and the others become 0. -/
def storeLanes {n : Nat} (limit : Nat) (r : Vector Byte n) (k : Nat) (v : Word) : Vector Byte n :=
  Vector.ofFn fun i =>
    if k ≤ i.val ∧ i.val < k + 4 then (if i.val < limit then lane v (i.val - k) else 0) else r[i]

/-! ### Buffers (R33, R34, R67) -/

/-- The byte at an index; an unlisted byte is 0, as R41 leaves it (log 8). -/
def Memory.read : Memory → Nat → Byte
  | [], _ => 0
  | (j, b) :: m, i => if i = j then b else Memory.read m i

/-- The buffer after a byte is written; writing 0 removes the entry. -/
def Memory.write : Memory → Nat → Byte → Memory
  | [], i, b => if b = 0 then [] else [(i, b)]
  | (j, c) :: m, i, b =>
    if i < j then (if b = 0 then (j, c) :: m else (i, b) :: (j, c) :: m)
    else if i = j then (if b = 0 then m else (i, b) :: m)
    else (j, c) :: Memory.write m i b

/-- The canonical form: indexes strictly rising, no entry equal to what an unlisted byte reads as. -/
abbrev Memory.wf (m : Memory) : Prop := m.Pairwise (fun p q => p.1 < q.1) ∧ ∀ p ∈ m, p.2 ≠ 0

/-- Every listed index is below `n`. -/
abbrev Memory.within (n : Nat) (m : Memory) : Prop := ∀ p ∈ m, p.1 < n

/-- The bytes `i .. i+n-1`. -/
def Memory.readBytes (m : Memory) (i n : Nat) : Bytes := byteTable n fun k => Memory.read m (i + k)

/-- The buffer after a byte string is written from index `i` up. -/
def Memory.writeBytes : Memory → Nat → Bytes → Memory
  | m, _, [] => m
  | m, i, b :: bs => Memory.writeBytes (Memory.write m i b) (i + 1) bs

/-- R53, R55: the word at byte offset `k` of a buffer. -/
def Memory.loadWord (m : Memory) (k : Nat) : Word :=
  ofLanes (Memory.read m k) (Memory.read m (k + 1)) (Memory.read m (k + 2)) (Memory.read m (k + 3))

/-- R53, R56: the buffer after a word is written at byte offset `k`. -/
def Memory.storeWord (m : Memory) (k : Nat) (v : Word) : Memory :=
  Memory.writeBytes m k [lane v 0, lane v 1, lane v 2, lane v 3]

/-! ### Contexts (R21, R22) -/

/-- R22: `bs(kt)`, the block size in bytes. -/
def blockSize : KeyType → Nat
  | .des => 8
  | .tdes2 => 8
  | .tdes3 => 8
  | .aes => 16

/-- R22: `klen(kt)`, the number of key bytes. -/
def keyLen : KeyType → Nat
  | .des => 8
  | .tdes2 => 16
  | .tdes3 => 24
  | .aes => 16

/-- R22, R180: `Rb(kt)`, the CMAC constant. -/
def rb : KeyType → Byte
  | .des => 0x1B
  | .tdes2 => 0x1B
  | .tdes3 => 0x1B
  | .aes => 0x87

/-- R22: `bsc(c)`, the block size of a context, 0 while it holds no key. -/
def Ctx.bsc (x : Ctx) : Nat := if x.kv then blockSize x.kt else 0

/-- R26: `sdes(c)`, the single-DES detection. -/
def Ctx.sdes (x : Ctx) : Bool :=
  x.kv && decide (x.kt = .tdes2) && decide (x.key.toList.take 8 = (x.key.toList.drop 8).take 8)

/-- `ctx[c]`. -/
def State.ctx (s : State) : CtxSel → Ctx
  | .s => s.ctxS
  | .x => s.ctxX

/-- `ctx[c] <- v`. -/
def State.setCtx (s : State) (c : CtxSel) (v : Ctx) : State :=
  match c with
  | .s => { s with ctxS := v }
  | .x => { s with ctxX := v }

/-! ### The end of a command (R111) -/

/-- R220: the code of an error kind. -/
def ErrKind.code : ErrKind → BitVec 8
  | .illcmd => 0x01
  | .state => 0x02
  | .length => 0x03
  | .integrity => 0x04

/-- R111: completion without error: `busy <- 0`, `done <- 1`; `err` and `errcode` stay (log 7). -/
def State.finish (s : State) : State := { s with busy := false, done := true }

/-- R111, R227: completion with an error, the one way an exception is taken. No state is saved, no mode changes and
control goes nowhere: the record is `err`, `errcode`, and the command word that stays in `cmdCur`. -/
def State.raise (e : ErrKind) (s : State) : State :=
  { s with busy := false, done := true, err := true, errcode := e.code }

/-- R58, R228: the host's acknowledgement, a write of ones to STATUS: bit 1 clears `done`, bit 2 `err` and `errcode`,
bit 3 `wib`. It stands where other machines have a return from exception. -/
def State.acknowledge (v : Word) (s : State) : State :=
  { s with
    done := s.done && !v.getLsbD 1
    err := s.err && !v.getLsbD 2
    errcode := if v.getLsbD 2 then 0 else s.errcode
    wib := s.wib && !v.getLsbD 3 }

/-- R110: the acceptance of a command word; it also takes back the record of the last command (R228). -/
def State.accept (cw : Word) (s : State) : State :=
  { s with cmdCur := cw, busy := true, done := false, err := false, errcode := 0 }

/-- R223: a command whose checks fail ends with that error and writes nothing else; one whose checks pass runs. -/
def State.checked (s : State) (check : Option ErrKind) (run : State → State) : State :=
  match check with
  | some e => s.raise e
  | none => run s

/-- R41, R250, R251: every element of the CEB takes its reset value; what surrounds the CEB stays. -/
def State.resetCeb (s : State) : State := { s with toCeb := Ceb.reset }

end Sys2Proof.Machine
end

