-- ==== Sys2Proof/Machine/Crc.lean ====
section
/-! DEFINITION. The two CRC generators (R200 to R206): reflected shift registers, one byte at a time, bit 0 first. -/

namespace Sys2Proof.Machine

/-- R200: the initial value of the CRC16 register. -/
def crc16Init : BitVec 16 := 0x6363

/-- R203: the initial value of the CRC32 register. -/
def crc32Init : BitVec 32 := 0xFFFFFFFF

/-- R201, R204: one shift of a register with the reflected polynomial `poly`. -/
def crcShift {w : Nat} (poly acc : BitVec w) : BitVec w :=
  if acc.getLsbD 0 then (acc >>> 1) ^^^ poly else acc >>> 1

/-- R201, R204: `n` shifts. -/
def crcShifts {w : Nat} (poly : BitVec w) : Nat → BitVec w → BitVec w
  | 0, acc => acc
  | n + 1, acc => crcShifts poly n (crcShift poly acc)

/-- R201, R204: one byte: combined into the low byte, then eight shifts. -/
def crcByte {w : Nat} (poly acc : BitVec w) (b : Byte) : BitVec w :=
  crcShifts poly 8 (acc ^^^ b.setWidth w)

/-- R201: `Crc16Upd(acc, D)`. -/
def crc16Upd (acc : BitVec 16) (d : Bytes) : BitVec 16 := d.foldl (crcByte 0x8408) acc

/-- R204: `Crc32Upd(acc, D)`. -/
def crc32Upd (acc : BitVec 32) (d : Bytes) : BitVec 32 := d.foldl (crcByte 0xEDB88320) acc

/-- R205: the finalization by one's complement. -/
def crc32Final (acc : BitVec 32) : BitVec 32 := acc ^^^ 0xFFFFFFFF

end Sys2Proof.Machine
end

