-- ==== Sys2Proof/Machine/Flags.lean ====
section
/-! DEFINITION. The flags: the views STATUS, CTRL, CTXS and CTXX as words, the interrupt line, and writes to CTRL. -/

namespace Sys2Proof.Machine

/-- R35: the STATUS word: ERRCODE in 15:8, WIB 3, ERR 2, DONE 1, BUSY 0, the rest 0. -/
def State.statusWord (s : State) : Word :=
  0#16 ++ s.errcode ++ 0#4 ++ BitVec.ofBool s.wib ++ BitVec.ofBool s.err ++ BitVec.ofBool s.done ++ BitVec.ofBool s.busy

/-- R36: the CTRL word: IE_ERR 2, IE_DONE 1, SRST reads 0. -/
def State.ctrlWord (s : State) : Word :=
  0#29 ++ BitVec.ofBool s.ieErr ++ BitVec.ofBool s.ieDone ++ 0#1

/-- R39: a context status word: the block size in 12:8, `sdes` 3, `kt` 2:1, `kv` 0, the rest 0. -/
def Ctx.statusWord (x : Ctx) : Word :=
  0#19 ++ BitVec.ofNat 5 x.bsc ++ 0#4 ++ BitVec.ofBool x.sdes ++ x.kt.code ++ BitVec.ofBool x.kv

/-- R42, R225: the interrupt output. -/
def State.irq (s : State) : Bool := (s.ieDone && s.done) || (s.ieErr && s.err)

/-- R59, R251: a write to CTRL: with bit 0 set the soft reset, else the two interrupt enables. -/
def State.writeCtrl (v : Word) (s : State) : State :=
  if v.getLsbD 0 then s.resetCeb else { s with ieDone := v.getLsbD 1, ieErr := v.getLsbD 2 }

end Sys2Proof.Machine
end

