-- ==== Sys2Proof/Machine/Bus.lean ====
section
/-! DEFINITION. The host's accesses: the address map (R51), reads (R55, R62) and writes (R56 to R60, R69). -/

namespace Sys2Proof.Machine

/-- R51: the elements of the address map. -/
inductive Element where
  | id
  | ctrl
  | status
  | cmd
  | outlen
  | maclen
  | crc16
  | crc32
  | ctxs
  | ctxx
  | keyin
  | iv (c : CtxSel)
  | k1
  | k2
  | mac
  | expect
  | din
  | dout
  deriving DecidableEq, Repr

/-- R51: a row of the address map: the element, the address of its byte 0, and its size in bytes. -/
structure Region where
  el : Element
  base : Nat
  bytes : Nat
  deriving DecidableEq, Repr

/-- R51: the address map; every address in no row is unmapped. -/
def regions (cfg : Config) : List Region :=
  [ { el := .id, base := 0x00000, bytes := 4 },
    { el := .ctrl, base := 0x00004, bytes := 4 },
    { el := .status, base := 0x00008, bytes := 4 },
    { el := .cmd, base := 0x0000C, bytes := 4 },
    { el := .outlen, base := 0x00010, bytes := 4 },
    { el := .maclen, base := 0x00014, bytes := 4 },
    { el := .crc16, base := 0x00018, bytes := 4 },
    { el := .crc32, base := 0x0001C, bytes := 4 },
    { el := .ctxs, base := 0x00020, bytes := 4 },
    { el := .ctxx, base := 0x00024, bytes := 4 },
    { el := .keyin, base := 0x00040, bytes := 24 },
    { el := .iv .s, base := 0x00060, bytes := 16 },
    { el := .iv .x, base := 0x00070, bytes := 16 },
    { el := .k1, base := 0x00080, bytes := 16 },
    { el := .k2, base := 0x00090, bytes := 16 },
    { el := .mac, base := 0x000A0, bytes := 16 },
    { el := .expect, base := 0x000B0, bytes := 16 },
    { el := .din, base := 0x10000, bytes := cfg.bufBytes },
    { el := .dout, base := 0x20000, bytes := cfg.bufBytes } ]

/-- Whether an address lies in a region. -/
def Region.holds (r : Region) (a : Nat) : Bool := decide (r.base ≤ a) && decide (a < r.base + r.bytes)

/-- R51, R52: the element at an address and the byte offset in it, or why the access gets the error response. It is
decided by the address alone (R222). -/
def locate (cfg : Config) (a : Addr) : Except BusError (Element × Nat) :=
  if a.toNat % 4 = 0 then
    match (regions cfg).find? (fun r => r.holds a.toNat) with
    | some r => .ok (r.el, a.toNat - r.base)
    | none => .error .unmapped
  else .error .misaligned

/-- R55: the word a read returns, at byte offset `k` of the element. -/
def State.readElement (s : State) (el : Element) (k : Nat) : Word :=
  match el with
  | .id => idValue
  | .ctrl => s.ctrlWord
  | .status => s.statusWord
  | .cmd => s.cmdCur
  | .outlen => s.outlen.setWidth 32
  | .maclen => s.maclen.setWidth 32
  | .crc16 => s.crc16Acc.setWidth 32
  | .crc32 => crc32Final s.crc32Acc
  | .ctxs => s.ctxS.statusWord
  | .ctxx => s.ctxX.statusWord
  | .keyin => 0
  | .iv c => loadLanes (s.ctx c).iv k
  | .k1 => loadLanes s.k1 k
  | .k2 => loadLanes s.k2 k
  | .mac => loadLanes s.mac k
  | .expect => loadLanes s.expect k
  | .din => Memory.loadWord s.din k
  | .dout => Memory.loadWord s.dout k

/-- R60: a write inside a context's IV register: bytes at index `bsc(c)` and above become 0. -/
def State.writeIv (s : State) (c : CtxSel) (k : Nat) (v : Word) : State :=
  s.setCtx c { s.ctx c with iv := storeLanes (s.ctx c).bsc (s.ctx c).iv k v }

/-- R56, R57, R58, R59: a write while `busy = 0`, at byte offset `k` of the element; read-only elements ignore it. -/
def State.writeElement (s : State) (el : Element) (k : Nat) (v : Word) : State :=
  match el with
  | .id => s
  | .ctrl => s.writeCtrl v
  | .status => s.acknowledge v
  | .cmd => s.accept v
  | .outlen => s
  | .maclen => s
  | .crc16 => s
  | .crc32 => s
  | .ctxs => s
  | .ctxx => s
  | .keyin => { s with keyin := storeLanes 24 s.keyin k v }
  | .iv c => s.writeIv c k v
  | .k1 => s
  | .k2 => s
  | .mac => s
  | .expect => { s with expect := storeLanes 16 s.expect k v }
  | .din => { s with din := Memory.storeWord s.din k v }
  | .dout => s

/-- R56, R59, R69: a write to a mapped element: while busy everything but CTRL is ignored and sets `wib`. -/
def State.writeMapped (s : State) (el : Element) (k : Nat) (v : Word) : State :=
  if s.busy && decide (el ≠ .ctrl) then { s with wib := true } else s.writeElement el k v

/-- What the bus answers the host is kept, newest first (log 3). -/
def State.reply (s : State) (r : Reply) : State := { s with replies := r :: s.replies }

/-- R52, R55, R62: a host read. It changes nothing of the CEB. -/
def State.hostRead (s : State) (a : Addr) : State :=
  match locate s.cfg a with
  | .ok (el, k) => s.reply (.data (s.readElement el k))
  | .error e => s.reply (.error e)

/-- R52, R56: a host write. -/
def State.hostWrite (s : State) (a : Addr) (v : Word) : State :=
  match locate s.cfg a with
  | .ok (el, k) => (s.writeMapped el k v).reply .ack
  | .error e => s.reply (.error e)

end Sys2Proof.Machine
end

