-- ==== Sys2Proof/Machine/Aes.lean ====
section
/-! DEFINITION. AES with a 16-byte key (R134 to R141). The state `s[r][c]` is the byte string in block order, its
element `r + 4c` (R134). The tables are the spec's own (log 10). -/

namespace Sys2Proof.Machine

/-! ### Tables -/

/-- R136: the S-box, row = high nibble, column = low nibble. -/
def aesSBoxRows : List (List Byte) :=
  [[0x63, 0x7C, 0x77, 0x7B, 0xF2, 0x6B, 0x6F, 0xC5, 0x30, 0x01, 0x67, 0x2B, 0xFE, 0xD7, 0xAB, 0x76],
   [0xCA, 0x82, 0xC9, 0x7D, 0xFA, 0x59, 0x47, 0xF0, 0xAD, 0xD4, 0xA2, 0xAF, 0x9C, 0xA4, 0x72, 0xC0],
   [0xB7, 0xFD, 0x93, 0x26, 0x36, 0x3F, 0xF7, 0xCC, 0x34, 0xA5, 0xE5, 0xF1, 0x71, 0xD8, 0x31, 0x15],
   [0x04, 0xC7, 0x23, 0xC3, 0x18, 0x96, 0x05, 0x9A, 0x07, 0x12, 0x80, 0xE2, 0xEB, 0x27, 0xB2, 0x75],
   [0x09, 0x83, 0x2C, 0x1A, 0x1B, 0x6E, 0x5A, 0xA0, 0x52, 0x3B, 0xD6, 0xB3, 0x29, 0xE3, 0x2F, 0x84],
   [0x53, 0xD1, 0x00, 0xED, 0x20, 0xFC, 0xB1, 0x5B, 0x6A, 0xCB, 0xBE, 0x39, 0x4A, 0x4C, 0x58, 0xCF],
   [0xD0, 0xEF, 0xAA, 0xFB, 0x43, 0x4D, 0x33, 0x85, 0x45, 0xF9, 0x02, 0x7F, 0x50, 0x3C, 0x9F, 0xA8],
   [0x51, 0xA3, 0x40, 0x8F, 0x92, 0x9D, 0x38, 0xF5, 0xBC, 0xB6, 0xDA, 0x21, 0x10, 0xFF, 0xF3, 0xD2],
   [0xCD, 0x0C, 0x13, 0xEC, 0x5F, 0x97, 0x44, 0x17, 0xC4, 0xA7, 0x7E, 0x3D, 0x64, 0x5D, 0x19, 0x73],
   [0x60, 0x81, 0x4F, 0xDC, 0x22, 0x2A, 0x90, 0x88, 0x46, 0xEE, 0xB8, 0x14, 0xDE, 0x5E, 0x0B, 0xDB],
   [0xE0, 0x32, 0x3A, 0x0A, 0x49, 0x06, 0x24, 0x5C, 0xC2, 0xD3, 0xAC, 0x62, 0x91, 0x95, 0xE4, 0x79],
   [0xE7, 0xC8, 0x37, 0x6D, 0x8D, 0xD5, 0x4E, 0xA9, 0x6C, 0x56, 0xF4, 0xEA, 0x65, 0x7A, 0xAE, 0x08],
   [0xBA, 0x78, 0x25, 0x2E, 0x1C, 0xA6, 0xB4, 0xC6, 0xE8, 0xDD, 0x74, 0x1F, 0x4B, 0xBD, 0x8B, 0x8A],
   [0x70, 0x3E, 0xB5, 0x66, 0x48, 0x03, 0xF6, 0x0E, 0x61, 0x35, 0x57, 0xB9, 0x86, 0xC1, 0x1D, 0x9E],
   [0xE1, 0xF8, 0x98, 0x11, 0x69, 0xD9, 0x8E, 0x94, 0x9B, 0x1E, 0x87, 0xE9, 0xCE, 0x55, 0x28, 0xDF],
   [0x8C, 0xA1, 0x89, 0x0D, 0xBF, 0xE6, 0x42, 0x68, 0x41, 0x99, 0x2D, 0x0F, 0xB0, 0x54, 0xBB, 0x16]]

/-- R137: the inverse S-box, row = high nibble, column = low nibble. -/
def aesInvSBoxRows : List (List Byte) :=
  [[0x52, 0x09, 0x6A, 0xD5, 0x30, 0x36, 0xA5, 0x38, 0xBF, 0x40, 0xA3, 0x9E, 0x81, 0xF3, 0xD7, 0xFB],
   [0x7C, 0xE3, 0x39, 0x82, 0x9B, 0x2F, 0xFF, 0x87, 0x34, 0x8E, 0x43, 0x44, 0xC4, 0xDE, 0xE9, 0xCB],
   [0x54, 0x7B, 0x94, 0x32, 0xA6, 0xC2, 0x23, 0x3D, 0xEE, 0x4C, 0x95, 0x0B, 0x42, 0xFA, 0xC3, 0x4E],
   [0x08, 0x2E, 0xA1, 0x66, 0x28, 0xD9, 0x24, 0xB2, 0x76, 0x5B, 0xA2, 0x49, 0x6D, 0x8B, 0xD1, 0x25],
   [0x72, 0xF8, 0xF6, 0x64, 0x86, 0x68, 0x98, 0x16, 0xD4, 0xA4, 0x5C, 0xCC, 0x5D, 0x65, 0xB6, 0x92],
   [0x6C, 0x70, 0x48, 0x50, 0xFD, 0xED, 0xB9, 0xDA, 0x5E, 0x15, 0x46, 0x57, 0xA7, 0x8D, 0x9D, 0x84],
   [0x90, 0xD8, 0xAB, 0x00, 0x8C, 0xBC, 0xD3, 0x0A, 0xF7, 0xE4, 0x58, 0x05, 0xB8, 0xB3, 0x45, 0x06],
   [0xD0, 0x2C, 0x1E, 0x8F, 0xCA, 0x3F, 0x0F, 0x02, 0xC1, 0xAF, 0xBD, 0x03, 0x01, 0x13, 0x8A, 0x6B],
   [0x3A, 0x91, 0x11, 0x41, 0x4F, 0x67, 0xDC, 0xEA, 0x97, 0xF2, 0xCF, 0xCE, 0xF0, 0xB4, 0xE6, 0x73],
   [0x96, 0xAC, 0x74, 0x22, 0xE7, 0xAD, 0x35, 0x85, 0xE2, 0xF9, 0x37, 0xE8, 0x1C, 0x75, 0xDF, 0x6E],
   [0x47, 0xF1, 0x1A, 0x71, 0x1D, 0x29, 0xC5, 0x89, 0x6F, 0xB7, 0x62, 0x0E, 0xAA, 0x18, 0xBE, 0x1B],
   [0xFC, 0x56, 0x3E, 0x4B, 0xC6, 0xD2, 0x79, 0x20, 0x9A, 0xDB, 0xC0, 0xFE, 0x78, 0xCD, 0x5A, 0xF4],
   [0x1F, 0xDD, 0xA8, 0x33, 0x88, 0x07, 0xC7, 0x31, 0xB1, 0x12, 0x10, 0x59, 0x27, 0x80, 0xEC, 0x5F],
   [0x60, 0x51, 0x7F, 0xA9, 0x19, 0xB5, 0x4A, 0x0D, 0x2D, 0xE5, 0x7A, 0x9F, 0x93, 0xC9, 0x9C, 0xEF],
   [0xA0, 0xE0, 0x3B, 0x4D, 0xAE, 0x2A, 0xF5, 0xB0, 0xC8, 0xEB, 0xBB, 0x3C, 0x83, 0x53, 0x99, 0x61],
   [0x17, 0x2B, 0x04, 0x7E, 0xBA, 0x77, 0xD6, 0x26, 0xE1, 0x69, 0x14, 0x63, 0x55, 0x21, 0x0C, 0x7D]]

/-- R138: `Rcon[1..10]`; entry 0 is not used. -/
def aesRcon : List Byte := [0x00, 0x01, 0x02, 0x04, 0x08, 0x10, 0x20, 0x40, 0x80, 0x1B, 0x36]

/-- R136: `SBox[x]`. -/
def aesSBox (x : Byte) : Byte := (aesSBoxRows.getD (x.toNat / 16) []).getD (x.toNat % 16) 0

/-- R137: `InvSBox[x]`. -/
def aesInvSBox (x : Byte) : Byte := (aesInvSBoxRows.getD (x.toNat / 16) []).getD (x.toNat % 16) 0

/-! ### Byte arithmetic (R135) -/

/-- R135: `xtime(a)`. -/
def xtime (a : Byte) : Byte := if a.msb then (a <<< 1) ^^^ 0x1B else a <<< 1

/-- R135: `xtime^i(a)`. -/
def xtimePow : Nat → Byte → Byte
  | 0, a => a
  | i + 1, a => xtime (xtimePow i a)

/-- R135: the product `a • b`, the xor of `xtime^i(a)` over every `i` with `b[i] = 1`. -/
def gmul (a b : Byte) : Byte :=
  (List.range 8).foldl (fun acc i => acc ^^^ (if b.getLsbD i then xtimePow i a else 0)) 0

/-! ### Key expansion (R138) -/

/-- R138: the word `w[i]` for `i >= 4` from the words before it. -/
def aesNextWord (ws : List Bytes) (i : Nat) : Bytes :=
  let t := ws.getD (i - 1) []
  let u :=
    if i % 4 = 0 then
      [aesSBox (t.getD 1 0) ^^^ aesRcon.getD (i / 4) 0, aesSBox (t.getD 2 0), aesSBox (t.getD 3 0), aesSBox (t.getD 0 0)]
    else t
  xorBytes (ws.getD (i - 4) []) u

/-- R138: the words `w[0 .. n+3]`. -/
def aesWords (k : Bytes) : Nat → List Bytes
  | 0 => [k.take 4, (k.drop 4).take 4, (k.drop 8).take 4, (k.drop 12).take 4]
  | n + 1 => aesWords k n ++ [aesNextWord (aesWords k n) (n + 4)]

/-- R138: the round key `rk_j := w[4j] ‖ w[4j+1] ‖ w[4j+2] ‖ w[4j+3]`. -/
def aesRoundKey (k : Bytes) (j : Nat) : Bytes :=
  (List.range 4).flatMap fun i => (aesWords k 40).getD (4 * j + i) []

/-! ### Round transformations (R139) -/

/-- R139: SubBytes. -/
def subBytes (s : Bytes) : Bytes := s.map aesSBox

/-- R139: InvSubBytes. -/
def invSubBytes (s : Bytes) : Bytes := s.map aesInvSBox

/-- R134: `s[r][c]`. -/
def aesAt (s : Bytes) (r c : Nat) : Byte := s.getD (r + 4 * c) 0

/-- R134: the state whose element `r`, `c` is `f r c`. -/
def aesState (f : Nat → Nat → Byte) : Bytes := byteTable 16 fun i => f (i % 4) (i / 4)

/-- R139: ShiftRows, `s'[r][c] = s[r][(c + r) mod 4]`. -/
def shiftRows (s : Bytes) : Bytes := aesState fun r c => aesAt s r ((c + r) % 4)

/-- R139: InvShiftRows, `s'[r][c] = s[r][(c - r) mod 4]`. -/
def invShiftRows (s : Bytes) : Bytes := aesState fun r c => aesAt s r ((c + 4 - r) % 4)

/-- R139: the product of each column with the circulant matrix whose first row is `m0 m1 m2 m3`: row `r`, column `q` of
the matrix is `m_((q - r) mod 4)`. -/
def mixWith (m0 m1 m2 m3 : Byte) (s : Bytes) : Bytes :=
  aesState fun r c =>
    gmul m0 (aesAt s r c) ^^^ gmul m1 (aesAt s ((r + 1) % 4) c) ^^^ gmul m2 (aesAt s ((r + 2) % 4) c) ^^^
      gmul m3 (aesAt s ((r + 3) % 4) c)

/-- R139: MixColumns. -/
def mixColumns (s : Bytes) : Bytes := mixWith 0x02 0x03 0x01 0x01 s

/-- R139: InvMixColumns. -/
def invMixColumns (s : Bytes) : Bytes := mixWith 0x0E 0x0B 0x0D 0x09 s

/-- R139: AddRoundKey. -/
def addRoundKey (rk s : Bytes) : Bytes := xorBytes s rk

/-! ### The cipher -/

/-- R140: a round `1..9` of the encryption. -/
def aesEncRound (k s : Bytes) (j : Nat) : Bytes :=
  addRoundKey (aesRoundKey k j) (mixColumns (shiftRows (subBytes s)))

/-- R140: `AesEnc(k, b)`. -/
def aesEnc (k b : Bytes) : Bytes :=
  let s := [1, 2, 3, 4, 5, 6, 7, 8, 9].foldl (aesEncRound k) (addRoundKey (aesRoundKey k 0) b)
  addRoundKey (aesRoundKey k 10) (shiftRows (subBytes s))

/-- R141: a round `9..1` of the decryption. -/
def aesDecRound (k s : Bytes) (j : Nat) : Bytes :=
  invMixColumns (addRoundKey (aesRoundKey k j) (invSubBytes (invShiftRows s)))

/-- R141: `AesDec(k, b)`. -/
def aesDec (k b : Bytes) : Bytes :=
  let s := [9, 8, 7, 6, 5, 4, 3, 2, 1].foldl (aesDecRound k) (addRoundKey (aesRoundKey k 10) b)
  addRoundKey (aesRoundKey k 0) (invSubBytes (invShiftRows s))

end Sys2Proof.Machine
end

