-- ==== Sys2Proof/Machine/Des.lean ====
section
/-! DEFINITION. DES (R121 to R130). A bit string of n bits is a BitVec n whose bit 1 is the most significant, so the
spec's bit `k` is `getMsbD (k - 1)` (R121, R7). The tables are the spec's own, entry by entry (log 10). -/

namespace Sys2Proof.Machine

/-! ### Tables -/

/-- R122: the initial permutation `IP` (64 entries). -/
def desIP : List Nat :=
  [58, 50, 42, 34, 26, 18, 10, 2,
   60, 52, 44, 36, 28, 20, 12, 4,
   62, 54, 46, 38, 30, 22, 14, 6,
   64, 56, 48, 40, 32, 24, 16, 8,
   57, 49, 41, 33, 25, 17, 9, 1,
   59, 51, 43, 35, 27, 19, 11, 3,
   61, 53, 45, 37, 29, 21, 13, 5,
   63, 55, 47, 39, 31, 23, 15, 7]

/-- R123: the final permutation `FP` (64 entries). -/
def desFP : List Nat :=
  [40, 8, 48, 16, 56, 24, 64, 32,
   39, 7, 47, 15, 55, 23, 63, 31,
   38, 6, 46, 14, 54, 22, 62, 30,
   37, 5, 45, 13, 53, 21, 61, 29,
   36, 4, 44, 12, 52, 20, 60, 28,
   35, 3, 43, 11, 51, 19, 59, 27,
   34, 2, 42, 10, 50, 18, 58, 26,
   33, 1, 41, 9, 49, 17, 57, 25]

/-- R124: the expansion `E`, 32 bits to 48 bits. -/
def desE : List Nat :=
  [32, 1, 2, 3, 4, 5,
   4, 5, 6, 7, 8, 9,
   8, 9, 10, 11, 12, 13,
   12, 13, 14, 15, 16, 17,
   16, 17, 18, 19, 20, 21,
   20, 21, 22, 23, 24, 25,
   24, 25, 26, 27, 28, 29,
   28, 29, 30, 31, 32, 1]

/-- R125: the permutation `P`, 32 bits to 32 bits. -/
def desP : List Nat :=
  [16, 7, 20, 21, 29, 12, 28, 17,
   1, 15, 23, 26, 5, 18, 31, 10,
   2, 8, 24, 14, 32, 27, 3, 9,
   19, 13, 30, 6, 22, 11, 4, 25]

/-- R126: the eight substitution boxes, each four rows of sixteen columns. -/
def desSBoxes : List (List (List Nat)) :=
  [[[14, 4, 13, 1, 2, 15, 11, 8, 3, 10, 6, 12, 5, 9, 0, 7],
    [0, 15, 7, 4, 14, 2, 13, 1, 10, 6, 12, 11, 9, 5, 3, 8],
    [4, 1, 14, 8, 13, 6, 2, 11, 15, 12, 9, 7, 3, 10, 5, 0],
    [15, 12, 8, 2, 4, 9, 1, 7, 5, 11, 3, 14, 10, 0, 6, 13]],
   [[15, 1, 8, 14, 6, 11, 3, 4, 9, 7, 2, 13, 12, 0, 5, 10],
    [3, 13, 4, 7, 15, 2, 8, 14, 12, 0, 1, 10, 6, 9, 11, 5],
    [0, 14, 7, 11, 10, 4, 13, 1, 5, 8, 12, 6, 9, 3, 2, 15],
    [13, 8, 10, 1, 3, 15, 4, 2, 11, 6, 7, 12, 0, 5, 14, 9]],
   [[10, 0, 9, 14, 6, 3, 15, 5, 1, 13, 12, 7, 11, 4, 2, 8],
    [13, 7, 0, 9, 3, 4, 6, 10, 2, 8, 5, 14, 12, 11, 15, 1],
    [13, 6, 4, 9, 8, 15, 3, 0, 11, 1, 2, 12, 5, 10, 14, 7],
    [1, 10, 13, 0, 6, 9, 8, 7, 4, 15, 14, 3, 11, 5, 2, 12]],
   [[7, 13, 14, 3, 0, 6, 9, 10, 1, 2, 8, 5, 11, 12, 4, 15],
    [13, 8, 11, 5, 6, 15, 0, 3, 4, 7, 2, 12, 1, 10, 14, 9],
    [10, 6, 9, 0, 12, 11, 7, 13, 15, 1, 3, 14, 5, 2, 8, 4],
    [3, 15, 0, 6, 10, 1, 13, 8, 9, 4, 5, 11, 12, 7, 2, 14]],
   [[2, 12, 4, 1, 7, 10, 11, 6, 8, 5, 3, 15, 13, 0, 14, 9],
    [14, 11, 2, 12, 4, 7, 13, 1, 5, 0, 15, 10, 3, 9, 8, 6],
    [4, 2, 1, 11, 10, 13, 7, 8, 15, 9, 12, 5, 6, 3, 0, 14],
    [11, 8, 12, 7, 1, 14, 2, 13, 6, 15, 0, 9, 10, 4, 5, 3]],
   [[12, 1, 10, 15, 9, 2, 6, 8, 0, 13, 3, 4, 14, 7, 5, 11],
    [10, 15, 4, 2, 7, 12, 9, 5, 6, 1, 13, 14, 0, 11, 3, 8],
    [9, 14, 15, 5, 2, 8, 12, 3, 7, 0, 4, 10, 1, 13, 11, 6],
    [4, 3, 2, 12, 9, 5, 15, 10, 11, 14, 1, 7, 6, 0, 8, 13]],
   [[4, 11, 2, 14, 15, 0, 8, 13, 3, 12, 9, 7, 5, 10, 6, 1],
    [13, 0, 11, 7, 4, 9, 1, 10, 14, 3, 5, 12, 2, 15, 8, 6],
    [1, 4, 11, 13, 12, 3, 7, 14, 10, 15, 6, 8, 0, 5, 9, 2],
    [6, 11, 13, 8, 1, 4, 10, 7, 9, 5, 0, 15, 14, 2, 3, 12]],
   [[13, 2, 8, 4, 6, 15, 11, 1, 10, 9, 3, 14, 5, 0, 12, 7],
    [1, 15, 13, 8, 10, 3, 7, 4, 12, 5, 6, 11, 0, 14, 9, 2],
    [7, 11, 4, 1, 9, 12, 14, 2, 0, 6, 10, 13, 15, 3, 5, 8],
    [2, 1, 14, 7, 4, 10, 8, 13, 15, 12, 9, 0, 3, 5, 6, 11]]]

/-- R128: `PC1` (56 entries). -/
def desPC1 : List Nat :=
  [57, 49, 41, 33, 25, 17, 9,
   1, 58, 50, 42, 34, 26, 18,
   10, 2, 59, 51, 43, 35, 27,
   19, 11, 3, 60, 52, 44, 36,
   63, 55, 47, 39, 31, 23, 15,
   7, 62, 54, 46, 38, 30, 22,
   14, 6, 61, 53, 45, 37, 29,
   21, 13, 5, 28, 20, 12, 4]

/-- R128: the left rotations `s_1 .. s_16`. -/
def desShifts : List Nat :=
  [1, 1, 2, 2, 2, 2, 2, 2, 1, 2, 2, 2, 2, 2, 2, 1]

/-- R128: `PC2` (48 entries). -/
def desPC2 : List Nat :=
  [14, 17, 11, 24, 1, 5,
   3, 28, 15, 6, 21, 10,
   23, 19, 12, 4, 26, 8,
   16, 7, 27, 20, 13, 2,
   41, 52, 31, 37, 47, 55,
   30, 40, 51, 45, 33, 48,
   44, 49, 39, 56, 34, 53,
   46, 42, 50, 36, 29, 32]

/-! ### Bit strings -/

/-- R121: a permutation table with `m` entries: output bit `i` is input bit `T[i]`. -/
def permute {n : Nat} (m : Nat) (t : List Nat) (x : BitVec n) : BitVec m :=
  BitVec.ofNat m (t.foldl (fun acc k => 2 * acc + (x.getMsbD (k - 1)).toNat) 0)

/-- R121: eight bytes as 64 bits, bit 1 the most significant bit of byte 0. -/
def desBits (b : Bytes) : BitVec 64 := BitVec.ofNat 64 (be b)

/-- The inverse of `desBits`. -/
def desBytes (x : BitVec 64) : Bytes := beBytes 8 x.toNat

/-! ### Round function -/

/-- R126: one substitution box: `row = 2*b1 + b6`, `col = 8*b2 + 4*b3 + 2*b4 + b5`. -/
def desSBox (box : List (List Nat)) (x : BitVec 6) : BitVec 4 :=
  BitVec.ofNat 4 ((box.getD (2 * (x.toNat / 32) + x.toNat % 2) []).getD (x.toNat / 2 % 16) 0)

/-- R127: the eight boxes side by side, `B_j` the bits `6j-5 .. 6j`. -/
def desSubstitute (x : BitVec 48) : BitVec 32 :=
  BitVec.ofNat 32 ((List.range 8).foldl
    (fun acc j => 16 * acc + (desSBox (desSBoxes.getD j []) (x.extractLsb' (42 - 6 * j) 6)).toNat) 0)

/-- R127: the round function `f(R, K)`. -/
def desF (r : BitVec 32) (k : BitVec 48) : BitVec 32 :=
  permute 32 desP (desSubstitute (permute 48 desE r ^^^ k))

/-! ### Key schedule -/

/-- R128: the round keys from `C_(i-1)`, `D_(i-1)` on, one for each remaining rotation. -/
def desRoundKeysFrom : List Nat → BitVec 28 → BitVec 28 → List (BitVec 48)
  | [], _, _ => []
  | n :: ns, c, d =>
    permute 48 desPC2 (c.rotateLeft n ++ d.rotateLeft n) :: desRoundKeysFrom ns (c.rotateLeft n) (d.rotateLeft n)

/-- R128: the round keys `K_1 .. K_16` of an 8-byte key. -/
def desRoundKeys (k : Bytes) : List (BitVec 48) :=
  let cd : BitVec 56 := permute 56 desPC1 (desBits k)
  desRoundKeysFrom desShifts (cd.extractLsb' 28 28) (cd.extractLsb' 0 28)

/-! ### The cipher -/

/-- R129: the rounds: `L_i := R_(i-1)`, `R_i := L_(i-1) xor f(R_(i-1), K_i)`. -/
def desRounds : List (BitVec 48) → BitVec 32 → BitVec 32 → BitVec 32 × BitVec 32
  | [], l, r => (l, r)
  | k :: ks, l, r => desRounds ks r (l ^^^ desF r k)

/-- R129, R130: `IP`, the rounds under the given round keys, and `FP` of the swapped halves. -/
def desCrypt (ks : List (BitVec 48)) (b : Bytes) : Bytes :=
  let x : BitVec 64 := permute 64 desIP (desBits b)
  let lr := desRounds ks (x.extractLsb' 32 32) (x.extractLsb' 0 32)
  desBytes (permute 64 desFP (lr.2 ++ lr.1))

/-- R129: `DesEnc(k, b)`. -/
def desEnc (k b : Bytes) : Bytes := desCrypt (desRoundKeys k) b

/-- R130: `DesDec(k, b)`: the round keys in the reverse order. -/
def desDec (k b : Bytes) : Bytes := desCrypt (desRoundKeys k).reverse b

end Sys2Proof.Machine
end

