-- ==== Sys2Proof/Machine/BlockCipher.lean ====
section
/-! DEFINITION. The block functions of the four key types (R120, R132) and the chains over them: ECB (R142, R143), CBC
(R161, R162), and the CMAC subkeys and core (R181 to R185). -/

namespace Sys2Proof.Machine

/-- `key[i .. i+n)`. -/
def keyPart (key : Vector Byte 24) (i n : Nat) : Bytes := (key.toList.drop i).take n

/-- R120: `BlkEnc(kt, key, b)`. -/
def blkEnc (kt : KeyType) (key : Vector Byte 24) (b : Bytes) : Bytes :=
  match kt with
  | .des => desEnc (keyPart key 0 8) b
  | .tdes2 => desEnc (keyPart key 0 8) (desDec (keyPart key 8 8) (desEnc (keyPart key 0 8) b))
  | .tdes3 => desEnc (keyPart key 16 8) (desDec (keyPart key 8 8) (desEnc (keyPart key 0 8) b))
  | .aes => aesEnc (keyPart key 0 16) b

/-- R120: `BlkDec(kt, key, b)`. -/
def blkDec (kt : KeyType) (key : Vector Byte 24) (b : Bytes) : Bytes :=
  match kt with
  | .des => desDec (keyPart key 0 8) b
  | .tdes2 => desDec (keyPart key 0 8) (desEnc (keyPart key 8 8) (desDec (keyPart key 0 8) b))
  | .tdes3 => desDec (keyPart key 0 8) (desEnc (keyPart key 8 8) (desDec (keyPart key 16 8) b))
  | .aes => aesDec (keyPart key 0 16) b

/-! ### ECB (R142, R143) -/

/-- R142: each block encrypted alone. -/
def ecbEncBytes (kt : KeyType) (key : Vector Byte 24) (m : Bytes) : Bytes :=
  ((blocks (blockSize kt) m).map (blkEnc kt key)).flatten

/-- R143: each block decrypted alone. -/
def ecbDecBytes (kt : KeyType) (key : Vector Byte 24) (m : Bytes) : Bytes :=
  ((blocks (blockSize kt) m).map (blkDec kt key)).flatten

/-! ### CBC (R161, R162) -/

/-- R161: the ciphertext blocks `C_i := BlkEnc(kt, key, M_i xor C_(i-1))`, given `C_(-1)`. -/
def cbcEncBlocks (kt : KeyType) (key : Vector Byte 24) : Bytes → List Bytes → List Bytes
  | _, [] => []
  | prev, m :: ms =>
    blkEnc kt key (xorBytes m prev) :: cbcEncBlocks kt key (blkEnc kt key (xorBytes m prev)) ms

/-- R161: `CbcEnc(kt, key, iv0, M) = (ct, last)`. -/
def cbcEnc (kt : KeyType) (key : Vector Byte 24) (iv0 m : Bytes) : Bytes × Bytes :=
  let cs := cbcEncBlocks kt key iv0 (blocks (blockSize kt) m)
  (cs.flatten, cs.getLastD iv0)

/-- R162: the plaintext blocks `P_i := BlkDec(kt, key, C_i) xor C_(i-1)`, given `C_(-1)`. -/
def cbcDecBlocks (kt : KeyType) (key : Vector Byte 24) : Bytes → List Bytes → List Bytes
  | _, [] => []
  | prev, c :: cs => xorBytes (blkDec kt key c) prev :: cbcDecBlocks kt key c cs

/-- R162: `CbcDec(kt, key, iv0, C) = (pt, last)`; `last` is the last block of the input. -/
def cbcDec (kt : KeyType) (key : Vector Byte 24) (iv0 c : Bytes) : Bytes × Bytes :=
  let cs := blocks (blockSize kt) c
  ((cbcDecBlocks kt key iv0 cs).flatten, cs.getLastD iv0)

/-! ### CMAC (R181 to R185) -/

/-- R181: the doubling of a block of `bs(kt)` bytes, with the constant `Rb(kt)` (R180). -/
def dbl (kt : KeyType) (b : Bytes) : Bytes :=
  byteTable (blockSize kt) fun i =>
    let shifted := (b.getD i 0 <<< 1) ||| (b.getD (i + 1) 0 >>> 7)
    if decide (i + 1 = blockSize kt) && (b.getD 0 0).msb then shifted ^^^ rb kt else shifted

/-- R182: `Subkeys(kt, key) = (K1, K2)`. -/
def subkeys (kt : KeyType) (key : Vector Byte 24) : Bytes × Bytes :=
  let l := (cbcEnc kt key (zeros (blockSize kt)) (zeros (blockSize kt))).1
  (dbl kt l, dbl kt (dbl kt l))

/-- R183: the message `M`, padded with `80` and zeros unless its length is a multiple of `bs`. -/
def cmacPad (bs : Nat) (d : Bytes) : Bytes :=
  if d.length % bs = 0 then d else d ++ [0x80] ++ zeros (bs - 1 - d.length % bs)

/-- R183: `M'`: the padded message with the chosen subkey combined into its last block. -/
def cmacMessage (bs : Nat) (k1 k2 d : Bytes) : Bytes :=
  let m := cmacPad bs d
  let kx := if d.length % bs = 0 then k1 else k2
  m.take (m.length - bs) ++ xorBytes (m.drop (m.length - bs)) kx

/-- R184: `CmacCore(kt, key, iv0, D) = (last, K1, K2)`. -/
def cmacCore (kt : KeyType) (key : Vector Byte 24) (iv0 d : Bytes) : Bytes × Bytes × Bytes :=
  let ks := subkeys kt key
  ((cbcEnc kt key iv0 (cmacMessage (blockSize kt) ks.1 ks.2 d)).2, ks.1, ks.2)

/-- R185: the MAC, the last 8 bytes of the final block. -/
def macOf (kt : KeyType) (last : Bytes) : Bytes := (last.drop (blockSize kt - 8)).take 8

end Sys2Proof.Machine
end

