-- ==== Sys2Proof/Machine/Operands.lean ====
section
/-! DEFINITION. The operand forms of the commands: the input, the starting chaining value, the paddings, the IV
write-back, the output, and the checks of R221 in the order of R222. -/

namespace Sys2Proof.Machine

/-- R67: the input `DIN[0..LEN)` of a data command. -/
def State.input (s : State) (len : Nat) : Bytes := Memory.readBytes s.din 0 len

/-- R160: the starting chaining value: `0^bs` with `ZIV`, else the context's carried IV. -/
def State.startIv (s : State) (c : CtxSel) (ziv : Bool) : Bytes :=
  if ziv then zeros (blockSize (s.ctx c).kt) else (s.ctx c).iv.toList.take (blockSize (s.ctx c).kt)

/-- R163: `ZeroPad(M, bs)`. -/
def zeroPad (bs : Nat) (m : Bytes) : Bytes := m ++ zeros ((bs - m.length % bs) % bs)

/-- R165, R167: the message a CBC encryption runs over: the input, zero-padded with `PAD`. -/
def State.message (s : State) (c : CtxSel) (pad : Bool) (len : Nat) : Bytes :=
  if pad then zeroPad (blockSize (s.ctx c).kt) (s.input len) else s.input len

/-- R164, R186: the IV write-back: with `UIV`, and only if the chain ran over at least one block, the selected
context's IV becomes `last ‖ 0^(16-bs)`. -/
def State.writeBackIv (s : State) (c : CtxSel) (uiv : Bool) (n : Nat) (last : Bytes) : State :=
  if uiv && decide (0 < n) then s.setCtx c { s.ctx c with iv := fixBytes 16 last } else s

/-- R34: a command's output: `DOUT[0..n) <- out`, `OUTLEN <- n`, the rest of `DOUT` unchanged. -/
def State.output (s : State) (out : Bytes) : State :=
  { s with dout := Memory.writeBytes s.dout 0 out, outlen := BitVec.ofNat 16 out.length }

/-- R221: `E_STATE` while the context holds no key. -/
def State.checkKey (s : State) (c : CtxSel) : Option ErrKind :=
  if (s.ctx c).kv then none else some .state

/-- R221: `E_LENGTH` where `bad` holds of the length, or it exceeds the buffer. -/
def State.checkLength (s : State) (len : Nat) (bad : Bool) : Option ErrKind :=
  if decide (s.cfg.bufBytes < len) || bad then some .length else none

/-- R221, R222: the checks of a keyed data command: `E_STATE` before `E_LENGTH`. -/
def State.checkKeyed (s : State) (c : CtxSel) (len : Nat) (bad : Bool) : Option ErrKind :=
  (s.checkKey c).or (s.checkLength len bad)

/-- R221: whether a length is not a whole number of the context's blocks. -/
def State.ragged (s : State) (c : CtxSel) (len : Nat) : Bool := decide (len % blockSize (s.ctx c).kt ≠ 0)

/-- R221: the length check of a CRC command that appends `w` bytes. -/
def State.checkCrc (s : State) (len w : Nat) (app : Bool) : Option ErrKind :=
  s.checkLength len (app && decide (s.cfg.bufBytes < len + w))

end Sys2Proof.Machine
end

