-- ==== Sys2Proof/Machine/CbcCommands.lean ====
section
/-! DEFINITION. The CBC commands with the IV pipeline (R160, R164 to R167). -/

namespace Sys2Proof.Machine

/-- R165: the chain of CBC.ENC and CBC.MAC: the ciphertext and the final block. -/
def State.cbcEncChain (s : State) (c : CtxSel) (ziv pad : Bool) (len : Nat) : Bytes × Bytes :=
  cbcEnc (s.ctx c).kt (s.ctx c).key (s.startIv c ziv) (s.message c pad len)

/-- R166: the chain of CBC.DEC: the plaintext and the last block of the input. -/
def State.cbcDecChain (s : State) (c : CtxSel) (ziv : Bool) (len : Nat) : Bytes × Bytes :=
  cbcDec (s.ctx c).kt (s.ctx c).key (s.startIv c ziv) (s.input len)

/-- R165: CBC.ENC c, len [, uiv] [, ziv] [, pad]. -/
def execCbcEnc (c : CtxSel) (uiv ziv pad : Bool) (len : Nat) (s : State) : Host.Outcome State Fault Refusal :=
  .next (s.checked (s.checkKeyed c len (!pad && s.ragged c len)) fun s =>
    ((s.output (s.cbcEncChain c ziv pad len).1).writeBackIv c uiv (s.message c pad len).length
      (s.cbcEncChain c ziv pad len).2).finish)

/-- R166: CBC.DEC c, len [, uiv] [, ziv]. -/
def execCbcDec (c : CtxSel) (uiv ziv : Bool) (len : Nat) (s : State) : Host.Outcome State Fault Refusal :=
  .next (s.checked (s.checkKeyed c len (s.ragged c len)) fun s =>
    ((s.output (s.cbcDecChain c ziv len).1).writeBackIv c uiv len (s.cbcDecChain c ziv len).2).finish)

/-- R167: CBC.MAC c, len [, uiv] [, ziv] [, pad]. -/
def execCbcMac (c : CtxSel) (uiv ziv pad : Bool) (len : Nat) (s : State) : Host.Outcome State Fault Refusal :=
  .next (s.checked (s.checkKeyed c len (decide (len = 0) || (!pad && s.ragged c len))) fun s =>
    (State.writeBackIv
      { s with
        mac := fixBytes 16 (s.cbcEncChain c ziv pad len).2
        maclen := BitVec.ofNat 5 (blockSize (s.ctx c).kt) }
      c uiv len (s.cbcEncChain c ziv pad len).2).finish)

end Sys2Proof.Machine
end

