-- ==== Sys2Proof/Machine/CmacCommands.lean ====
section
/-! DEFINITION. The CMAC commands SUBK and CMAC (R187 to R190). -/

namespace Sys2Proof.Machine

/-- R184: the final block and the subkeys of a CMAC command. -/
def State.cmacChain (s : State) (c : CtxSel) (ziv : Bool) (len : Nat) : Bytes × Bytes × Bytes :=
  cmacCore (s.ctx c).kt (s.ctx c).key (s.startIv c ziv) (s.input len)

/-- R187, R188: `K1 <- k1 ‖ 0^(16-bs)`, `K2 <- k2 ‖ 0^(16-bs)`. -/
def State.setSubkeys (s : State) (ks : Bytes × Bytes) : State :=
  { s with k1 := fixBytes 16 ks.1, k2 := fixBytes 16 ks.2 }

/-- R188: the writes of a CMAC command: subkeys, MAC, MACLEN, and with `UIV` the IV. -/
def State.cmacWrites (s : State) (c : CtxSel) (uiv ziv : Bool) (len : Nat) : State :=
  State.writeBackIv
    { s.setSubkeys (s.cmacChain c ziv len).2 with
      mac := fixBytes 16 (macOf (s.ctx c).kt (s.cmacChain c ziv len).1)
      maclen := 8 }
    c uiv len (s.cmacChain c ziv len).1

/-- R189: whether `MAC[0..8) = EXPECT[0..8)`. -/
def State.macMatches (s : State) : Bool := decide (s.mac.toList.take 8 = s.expect.toList.take 8)

/-- R187: SUBK c. -/
def execSubk (c : CtxSel) (s : State) : Host.Outcome State Fault Refusal :=
  .next (s.checked (s.checkKey c) fun s => (s.setSubkeys (subkeys (s.ctx c).kt (s.ctx c).key)).finish)

/-- R188, R189, R190: CMAC c, len [, uiv] [, ziv] [, vfy]. A failed verification keeps the writes (R224). -/
def execCmac (c : CtxSel) (uiv ziv vfy : Bool) (len : Nat) (s : State) : Host.Outcome State Fault Refusal :=
  .next (s.checked (s.checkKeyed c len (decide (len = 0))) fun s =>
    if vfy && !(s.cmacWrites c uiv ziv len).macMatches then (s.cmacWrites c uiv ziv len).raise .integrity
    else (s.cmacWrites c uiv ziv len).finish)

end Sys2Proof.Machine
end

