-- ==== Sys2Proof/Machine/ContextCommands.lean ====
section
/-! DEFINITION. The commands that manage the key contexts: NOP, CLRCTX, LOADKEY (R112 to R114). -/

namespace Sys2Proof.Machine

/-- R113: what CLRCTX on the session context clears beside the context. -/
def State.clearSession (s : State) : State :=
  { s with
    keyin := Vector.replicate 24 0
    k1 := Vector.replicate 16 0
    k2 := Vector.replicate 16 0
    mac := Vector.replicate 16 0
    maclen := 0
    expect := Vector.replicate 16 0
    crc16Acc := 0x6363
    crc32Acc := 0xFFFFFFFF
    din := []
    dout := []
    outlen := 0 }

/-- R114: the context LOADKEY makes from the staging register. -/
def loadedCtx (kt : KeyType) (keyin : Vector Byte 24) : Ctx :=
  { kv := true, kt := kt, key := fixBytes 24 (keyin.toList.take (keyLen kt)), iv := Vector.replicate 16 0 }

/-- R112: NOP writes nothing but the status flags. -/
def execNop (s : State) : Host.Outcome State Fault Refusal := .next s.finish

/-- R113: CLRCTX c. -/
def execClrctx (c : CtxSel) (s : State) : Host.Outcome State Fault Refusal :=
  match c with
  | .s => .next (s.setCtx .s Ctx.clear).clearSession.finish
  | .x => .next (s.setCtx .x Ctx.clear).finish

/-- R114: LOADKEY c, kt. -/
def execLoadkey (c : CtxSel) (kt : KeyType) (s : State) : Host.Outcome State Fault Refusal :=
  .next (State.finish { s.setCtx c (loadedCtx kt s.keyin) with keyin := Vector.replicate 24 0 })

end Sys2Proof.Machine
end

