-- ==== Sys2Proof/Machine/CrcCommands.lean ====
section
/-! DEFINITION. The CRC commands (R207, R208). -/

namespace Sys2Proof.Machine

/-- R207: the CRC16 register after the command. -/
def State.crc16Of (s : State) (cont : Bool) (len : Nat) : BitVec 16 :=
  crc16Upd (if cont then s.crc16Acc else crc16Init) (s.input len)

/-- R208: the CRC32 register, before finalization, after the command. -/
def State.crc32Of (s : State) (cont : Bool) (len : Nat) : BitVec 32 :=
  crc32Upd (if cont then s.crc32Acc else crc32Init) (s.input len)

/-- R207, R208: with `APP` the bytes of the CRC are written into `DIN` after the data. -/
def State.appendCrc (s : State) (app : Bool) (len : Nat) (b : Bytes) : State :=
  if app then { s with din := Memory.writeBytes s.din len b } else s

/-- R207: CRC16 len [, cont] [, app]. -/
def execCrc16 (cont app : Bool) (len : Nat) (s : State) : Host.Outcome State Fault Refusal :=
  .next (s.checked (s.checkCrc len 2 app) fun s =>
    (State.appendCrc { s with crc16Acc := s.crc16Of cont len } app len (leBytes 2 (s.crc16Of cont len))).finish)

/-- R208: CRC32 len [, cont] [, app]. -/
def execCrc32 (cont app : Bool) (len : Nat) (s : State) : Host.Outcome State Fault Refusal :=
  .next (s.checked (s.checkCrc len 4 app) fun s =>
    (State.appendCrc { s with crc32Acc := s.crc32Of cont len } app len
      (leBytes 4 (crc32Final (s.crc32Of cont len)))).finish)

end Sys2Proof.Machine
end

