-- ==== Sys2Proof/Machine/EcbCommands.lean ====
section
/-! DEFINITION. The ECB commands (R142, R143). -/

namespace Sys2Proof.Machine

/-- R142: ECB.ENC c, len. -/
def execEcbEnc (c : CtxSel) (len : Nat) (s : State) : Host.Outcome State Fault Refusal :=
  .next (s.checked (s.checkKeyed c len (s.ragged c len)) fun s =>
    (s.output (ecbEncBytes (s.ctx c).kt (s.ctx c).key (s.input len))).finish)

/-- R143: ECB.DEC c, len. -/
def execEcbDec (c : CtxSel) (len : Nat) (s : State) : Host.Outcome State Fault Refusal :=
  .next (s.checked (s.checkKeyed c len (s.ragged c len)) fun s =>
    (s.output (ecbDecBytes (s.ctx c).kt (s.ctx c).key (s.input len))).finish)

end Sys2Proof.Machine
end

