-- ==== Sys2Proof/Machine/Dispatch.lean ====
section
/-! DEFINITION. The completion step of a legal command (R111), one arm for each constructor of Instr. -/

namespace Sys2Proof.Machine

-- R111: `exec(d, s)` together with the commit of its writes and of the status flags.
def exec (i : Instr) (s : State) : Host.Outcome State Fault Refusal :=
  match i with
  | .nop => Sys2Proof.Machine.execNop s
  | .clrctx c => Sys2Proof.Machine.execClrctx c s
  | .loadkey c kt => Sys2Proof.Machine.execLoadkey c kt s
  | .ecbEnc c len => Sys2Proof.Machine.execEcbEnc c len s
  | .ecbDec c len => Sys2Proof.Machine.execEcbDec c len s
  | .cbcEnc c uiv ziv pad len => Sys2Proof.Machine.execCbcEnc c uiv ziv pad len s
  | .cbcDec c uiv ziv len => Sys2Proof.Machine.execCbcDec c uiv ziv len s
  | .cbcMac c uiv ziv pad len => Sys2Proof.Machine.execCbcMac c uiv ziv pad len s
  | .subk c => Sys2Proof.Machine.execSubk c s
  | .cmac c uiv ziv vfy len => Sys2Proof.Machine.execCmac c uiv ziv vfy len s
  | .crc16 cont app len => Sys2Proof.Machine.execCrc16 cont app len s
  | .crc32 cont app len => Sys2Proof.Machine.execCrc32 cont app len s

end Sys2Proof.Machine
end

