-- ==== Sys2Proof/Machine/Sequencer.lean ====
section
/-! DEFINITION. The command sequencer (R38, R111) and the interleaving of the agents (R64). -/

namespace Sys2Proof.Machine

/-- R111: the engine's turn: while `busy = 1` it completes the command in flight, an illegal word with `E_ILLCMD`
(R86); while idle the CEB holds its state (R231). -/
def State.engineTurn (s : State) : Host.Outcome State Fault Refusal :=
  if s.busy then
    match decode s.cmdCur with
    | .ok i => exec i s
    | .error _ => .next (s.raise .illcmd)
  else .next s

/-- R64: one step of the agent an event names. -/
def State.takeEvent (e : Event) (s : State) : Host.Outcome State Fault Refusal :=
  match e with
  | .hostRead a => .next (s.hostRead a)
  | .hostWrite a v => .next (s.hostWrite a v)
  | .engine => s.engineTurn
  | .rst => .next s.resetCeb

/-- R64: the next step of the machine: the first event of the agenda; with an empty agenda the engine's turn, so that a
command in flight is completed (R258, log 2). -/
def State.nextTurn (s : State) : Host.Outcome State Fault Refusal :=
  match s.agenda with
  | [] => s.engineTurn
  | e :: rest => State.takeEvent e { s with agenda := rest }

/-- A command word of `nbits` bits in flight, and the engine's turn next: what an accepted CMD write leaves (R110, log 4). -/
def State.withCommand (s : State) (nbits w : Nat) : State :=
  { s.accept (BitVec.ofNat 32 (w % 2 ^ nbits)) with agenda := [] }

end Sys2Proof.Machine
end

