-- ==== Sys2Proof/Machine/Step.lean ====
section
/-! DEFINITION. The step of the machine, and a command word placed where the next step takes its command. -/

namespace Sys2Proof.Machine

/-- R64: one step of one agent. -/
def step (s : State) : Host.Outcome State Fault Refusal := s.nextTurn

/-- The state in which the very next step runs the command word `w`: the word is in flight, as the host's write to CMD
leaves it (R110), and the engine is next (log 4). -/
def State.withFetchWord (s : State) (nbits w : Nat) : State := s.withCommand nbits w

end Sys2Proof.Machine
end

