-- ==== Sys2Proof/Safety.lean ====
section
/-! DEFINITION. What holds in every state of a run, and the words the statements are made in: the invariant of the
machine, the legal words of R85, the mapped addresses of R51, and the causes of R221. -/

namespace Sys2Proof.Machine

/-! ### The invariant -/

/-- R25: the IV is masked to the context's block size, and with no key it is zero. -/
def Ctx.ivMasked (x : Ctx) : Prop := ∀ k, x.bsc ≤ k → x.iv.getD k 0 = 0

/-- R21, R24: key bytes beyond `klen(kt)` are zero, and a context without a key holds nothing. -/
def Ctx.keyMasked (x : Ctx) : Prop :=
  (∀ k, (if x.kv then keyLen x.kt else 0) ≤ k → x.key.getD k 0 = 0) ∧ (x.kv = false → x.kt = .des)

/-- R33, R34, R61: the buffers are in canonical form and hold nothing beyond `BUF_BYTES`; `OUTLEN` fits the buffer. -/
def State.buffersOk (s : State) : Prop :=
  Memory.wf s.din ∧ Memory.wf s.dout ∧ Memory.within s.cfg.bufBytes s.din ∧ Memory.within s.cfg.bufBytes s.dout ∧
    s.outlen.toNat ≤ s.cfg.bufBytes

/-- R29: `MACLEN` is 0, 8 or 16, and the bytes of `MAC` beyond it are zero. -/
def State.macOk (s : State) : Prop :=
  (s.maclen = 0 ∨ s.maclen = 8 ∨ s.maclen = 16) ∧ ∀ k, s.maclen.toNat ≤ k → s.mac.getD k 0 = 0

/-- R35, R220: while busy neither `done` nor `err` is set; `ERRCODE` is 0 exactly when `err` is 0, and never above 4. -/
def State.flagsOk (s : State) : Prop :=
  (s.busy = true → s.done = false ∧ s.err = false) ∧ (s.errcode = 0 ↔ s.err = false) ∧ s.errcode.toNat ≤ 4

/-- The invariant of the machine. -/
def State.Inv (s : State) : Prop :=
  (∀ c, (s.ctx c).ivMasked) ∧ (∀ c, (s.ctx c).keyMasked) ∧ s.buffersOk ∧ s.macOk ∧ s.flagsOk

/-! ### Legal words (R85) -/

/-- R85: the flags in `cw[15:8]` are among the allowed ones. -/
def flagsAmong (cw : Word) (allowed : BitVec 8) : Prop := cw.extractLsb' 8 8 &&& ~~~allowed = 0

/-- R84, R85: a word is legal: its opcode is in the table, its flags are allowed and its `ARG` is in range. -/
def legalWord (cw : Word) : Prop :=
  (fieldOp cw = 0x00 ∧ flagsAmong cw 0x00 ∧ fieldLen cw = 0) ∨
  (fieldOp cw = 0x01 ∧ flagsAmong cw 0x01 ∧ fieldLen cw = 0) ∨
  (fieldOp cw = 0x02 ∧ flagsAmong cw 0x01 ∧ fieldLen cw ≤ 3) ∨
  (fieldOp cw = 0x10 ∧ flagsAmong cw 0x01) ∨
  (fieldOp cw = 0x11 ∧ flagsAmong cw 0x01) ∨
  (fieldOp cw = 0x20 ∧ flagsAmong cw 0x0F) ∨
  (fieldOp cw = 0x21 ∧ flagsAmong cw 0x07) ∨
  (fieldOp cw = 0x22 ∧ flagsAmong cw 0x0F) ∨
  (fieldOp cw = 0x30 ∧ flagsAmong cw 0x01 ∧ fieldLen cw = 0) ∨
  (fieldOp cw = 0x31 ∧ flagsAmong cw 0x27) ∨
  (fieldOp cw = 0x40 ∧ flagsAmong cw 0x50) ∨
  (fieldOp cw = 0x41 ∧ flagsAmong cw 0x50)

/-! ### The address map (R51) -/

/-- R51: the mapped addresses, for a buffer capacity. -/
def mapped (buf a : Nat) : Prop :=
  a < 0x28 ∨ (0x40 ≤ a ∧ a < 0x58) ∨ (0x60 ≤ a ∧ a < 0xC0) ∨ (0x10000 ≤ a ∧ a < 0x10000 + buf) ∨
    (0x20000 ≤ a ∧ a < 0x20000 + buf)

/-! ### Causes of errors (R221) -/

/-- The context a command selects, if it has one (R82). -/
def contextOf : Instr → Option CtxSel
  | .nop => none
  | .clrctx c => some c
  | .loadkey c _ => some c
  | .ecbEnc c _ => some c
  | .ecbDec c _ => some c
  | .cbcEnc c _ _ _ _ => some c
  | .cbcDec c _ _ _ => some c
  | .cbcMac c _ _ _ _ => some c
  | .subk c => some c
  | .cmac c _ _ _ _ => some c
  | .crc16 _ _ _ => none
  | .crc32 _ _ _ => none

/-- R221: the condition of `E_STATE`. -/
def stateCause (i : Instr) (s : State) : Prop :=
  match i with
  | .nop => False
  | .clrctx _ => False
  | .loadkey _ _ => False
  | .ecbEnc c _ => (s.ctx c).kv = false
  | .ecbDec c _ => (s.ctx c).kv = false
  | .cbcEnc c _ _ _ _ => (s.ctx c).kv = false
  | .cbcDec c _ _ _ => (s.ctx c).kv = false
  | .cbcMac c _ _ _ _ => (s.ctx c).kv = false
  | .subk c => (s.ctx c).kv = false
  | .cmac c _ _ _ _ => (s.ctx c).kv = false
  | .crc16 _ _ _ => False
  | .crc32 _ _ _ => False

/-- R221: the condition of `E_LENGTH`, in the block size `bsc(c)`. -/
def lengthCause (i : Instr) (s : State) : Prop :=
  match i with
  | .nop => False
  | .clrctx _ => False
  | .loadkey _ _ => False
  | .ecbEnc c len => s.cfg.bufBytes < len ∨ len % (s.ctx c).bsc ≠ 0
  | .ecbDec c len => s.cfg.bufBytes < len ∨ len % (s.ctx c).bsc ≠ 0
  | .cbcEnc c _ _ pad len => s.cfg.bufBytes < len ∨ (pad = false ∧ len % (s.ctx c).bsc ≠ 0)
  | .cbcDec c _ _ len => s.cfg.bufBytes < len ∨ len % (s.ctx c).bsc ≠ 0
  | .cbcMac c _ _ pad len => s.cfg.bufBytes < len ∨ len = 0 ∨ (pad = false ∧ len % (s.ctx c).bsc ≠ 0)
  | .subk _ => False
  | .cmac _ _ _ _ len => s.cfg.bufBytes < len ∨ len = 0
  | .crc16 _ app len => s.cfg.bufBytes < len ∨ (app = true ∧ s.cfg.bufBytes < len + 2)
  | .crc32 _ app len => s.cfg.bufBytes < len ∨ (app = true ∧ s.cfg.bufBytes < len + 4)

/-- R185, R188: the 8-byte MAC a CMAC command computes. -/
def State.computedMac (s : State) (c : CtxSel) (ziv : Bool) (len : Nat) : Bytes :=
  macOf (s.ctx c).kt (cmacCore (s.ctx c).kt (s.ctx c).key (s.startIv c ziv) (Memory.readBytes s.din 0 len)).1

/-- R221: the condition of `E_INTEGRITY`. -/
def integrityCause (i : Instr) (s : State) : Prop :=
  match i with
  | .nop => False
  | .clrctx _ => False
  | .loadkey _ _ => False
  | .ecbEnc _ _ => False
  | .ecbDec _ _ => False
  | .cbcEnc _ _ _ _ _ => False
  | .cbcDec _ _ _ _ => False
  | .cbcMac _ _ _ _ _ => False
  | .subk _ => False
  | .cmac c _ ziv vfy len => vfy = true ∧ s.computedMac c ziv len ≠ s.expect.toList.take 8
  | .crc16 _ _ _ => False
  | .crc32 _ _ _ => False

end Sys2Proof.Machine
end

