-- ==== Sys2Proof/Certificates/Slice0/Obligations.lean ====
section
/-! DEFINITION. The statements for the provers: each a Prop that cites the rules of spec/ it formalises. -/

open Sys2Proof Sys2Proof.Machine

/-! ### Encoding -/

/-- R81, R82, R90: decoding the encoding of a well-formed command gives the command back, whatever its operands. -/
def Obligations.DecodeOfEncode : Prop :=
  ∀ i : Instr, i.wellFormed = true → decode (encode i) = .ok i

/-- R81, R85, R90: a word that decodes is the encoding of the command it decodes to, bit for bit, and that command is
well formed: no bit of a legal word is dropped. -/
def Obligations.EncodeOfDecode : Prop :=
  ∀ (cw : Word) (i : Instr), decode cw = .ok i → i.wellFormed = true ∧ encode i = cw

/-- R85: the two wordings of legality agree: a word decodes exactly when its opcode is in the table, its flags are among
the allowed ones and its ARG is in range; and no word fits two rows' mask and match. -/
def Obligations.LegalWordsDecode : Prop :=
  (∀ cw : Word, (∃ i, decode cw = .ok i) ↔ legalWord cw) ∧
    rows.Pairwise fun p q => ∀ cw, ¬(p.fits cw = true ∧ q.fits cw = true)

/-- R81, R84, R87: words written out from the encoding tables decode to the commands they stand for. -/
def Obligations.DecodeWrittenWords : Prop :=
  decodeTableWord 32 0x00000000 = some .nop ∧
  decodeTableWord 32 0x00020102 = some (.loadkey .x .tdes3) ∧
  decodeTableWord 32 0x00200111 = some (.ecbDec .x 32) ∧
  decodeTableWord 32 0x00180A20 = some (.cbcEnc .s true false true 24) ∧
  decodeTableWord 32 0x00102231 = some (.cmac .s true false true 16) ∧
  decodeTableWord 32 0x00055041 = some (.crc32 true true 5)

/-- R86: a word that is not legal is accepted like any other, and its completion records `E_ILLCMD` and changes nothing
else. -/
def Obligations.IllegalWordOnlyRecordsError : Prop :=
  ∀ (s : State) (cw : Word) (rest : List Event), ¬legalWord cw → s.busy = false →
    s.agenda = .hostWrite 0x0000C cw :: .engine :: rest →
    core.run 2 s = .next
      { s with
        cmdCur := cw, busy := false, done := true, err := true, errcode := 0x01
        agenda := rest, replies := .ack :: s.replies }

/-! ### The sequencer and the machine -/

/-- R111, R64: when a command is in flight, its word decodes, and it is the engine's turn, the step is that command's
meaning; an `engine` event of the agenda is consumed first, an empty agenda is the engine's turn by itself. -/
def Obligations.StepRunsDecodedCommand : Prop :=
  ∀ (s : State) (i : Instr) (rest : List Event), s.busy = true → decode s.cmdCur = .ok i →
    (s.agenda = [] → step s = exec i s) ∧
    (s.agenda = .engine :: rest → step s = exec i { s with agenda := rest })

/-- R111, R231: every step of the machine answers a next state: no event, no command and no word stops it; and idle, with
nothing scheduled or the engine scheduled, the CEB holds its state. -/
def Obligations.EveryStepAnswersNext : Prop :=
  (∀ s : State, ∃ t, step s = .next t) ∧
  ∀ s : State, s.busy = false →
    (s.agenda = [] → step s = .next s) ∧ ∀ rest, s.agenda = .engine :: rest → step s = .next { s with agenda := rest }

/-- R41: the value of every element of the CEB after reset, after an assertion of the reset input and after the soft
reset alike. -/
def Obligations.ResetGivesEveryElement : Prop :=
  let r : Ceb :=
    { ctxS := { kv := false, kt := .des, key := Vector.replicate 24 0, iv := Vector.replicate 16 0 }
      ctxX := { kv := false, kt := .des, key := Vector.replicate 24 0, iv := Vector.replicate 16 0 }
      keyin := Vector.replicate 24 0, k1 := Vector.replicate 16 0, k2 := Vector.replicate 16 0
      mac := Vector.replicate 16 0, maclen := 0, expect := Vector.replicate 16 0
      crc16Acc := 0x6363, crc32Acc := 0xFFFFFFFF, din := [], dout := [], outlen := 0
      busy := false, done := false, err := false, wib := false, errcode := 0, cmdCur := 0
      ieDone := false, ieErr := false }
  State.reset.toCeb = r ∧ State.reset.irq = false ∧ (∀ i, Memory.read r.din i = 0 ∧ Memory.read r.dout i = 0) ∧
  (∀ (s : State) (rest : List Event), s.agenda = .rst :: rest → step s = .next { s with toCeb := r, agenda := rest }) ∧
  (∀ (s : State) (v : Word) (rest : List Event), s.agenda = .hostWrite 0x00004 v :: rest → v.getLsbD 0 = true →
    step s = .next { s with toCeb := r, agenda := rest, replies := .ack :: s.replies })

/-- R25, R29, R35, R41: the state after reset meets the invariant. -/
def Obligations.ResetMeetsInvariant : Prop := State.reset.Inv

/-- R25, R21, R29, R34, R35: the invariant is kept by every step of either agent: IVs and keys stay masked, the buffers
stay in canonical form and inside BUF_BYTES, MACLEN and MAC agree, BUSY excludes DONE and ERR, ERRCODE agrees with ERR. -/
def Obligations.StepKeepsInvariant : Prop :=
  ∀ s t : State, s.Inv → step s = .next t → t.Inv

/-- R20, R34, R63: what no command writes: the command word, the enables, WIB, the parameter, the agenda and the answers;
EXPECT only by CLRCTX s; KEYIN only by CLRCTX s and LOADKEY; DIN only by CLRCTX s and an appending CRC command; DOUT and
OUTLEN only by CLRCTX s, the ECB commands, CBC.ENC and CBC.DEC; MAC and MACLEN only by CLRCTX s, CBC.MAC and CMAC; K1 and
K2 only by CLRCTX s, SUBK and CMAC; each CRC register only by CLRCTX s and its own command. -/
def Obligations.CommandsWriteOnlyTheirElements : Prop :=
  ∀ (i : Instr) (s t : State), exec i s = .next t →
    (t.cmdCur = s.cmdCur ∧ t.ieDone = s.ieDone ∧ t.ieErr = s.ieErr ∧ t.wib = s.wib ∧ t.cfg = s.cfg ∧
      t.agenda = s.agenda ∧ t.replies = s.replies) ∧
    (i ≠ .clrctx .s →
      t.expect = s.expect ∧
      ((∀ c kt, i ≠ .loadkey c kt) → t.keyin = s.keyin) ∧
      ((∀ cont len, i ≠ .crc16 cont true len ∧ i ≠ .crc32 cont true len) → t.din = s.din) ∧
      ((∀ c len, i ≠ .ecbEnc c len ∧ i ≠ .ecbDec c len) → (∀ c u z p len, i ≠ .cbcEnc c u z p len) →
        (∀ c u z len, i ≠ .cbcDec c u z len) → t.dout = s.dout ∧ t.outlen = s.outlen) ∧
      ((∀ c u z p len, i ≠ .cbcMac c u z p len) → (∀ c u z v len, i ≠ .cmac c u z v len) →
        t.mac = s.mac ∧ t.maclen = s.maclen) ∧
      ((∀ c, i ≠ .subk c) → (∀ c u z v len, i ≠ .cmac c u z v len) → t.k1 = s.k1 ∧ t.k2 = s.k2) ∧
      ((∀ cont app len, i ≠ .crc16 cont app len) → t.crc16Acc = s.crc16Acc) ∧
      ((∀ cont app len, i ≠ .crc32 cont app len) → t.crc32Acc = s.crc32Acc))

/-- R23, R24, R164, R257: a command leaves the context it does not select untouched, and only LOADKEY and CLRCTX change
a key, a key type or a key-valid bit. -/
def Obligations.OnlySelectedContextChanges : Prop :=
  ∀ (i : Instr) (s t : State), exec i s = .next t →
    (∀ d, contextOf i ≠ some d → t.ctx d = s.ctx d) ∧
    (∀ d, i ≠ .clrctx d → (∀ kt, i ≠ .loadkey d kt) →
      (t.ctx d).kv = (s.ctx d).kv ∧ (t.ctx d).kt = (s.ctx d).kt ∧ (t.ctx d).key = (s.ctx d).key)

/-- R43, R64, R66, R258: the result of a command does not depend on what the host can change in the busy window (WIB and
the interrupt enables), nor on when it completes. -/
def Obligations.CommandIgnoresTheBusyWindow : Prop :=
  ∀ (i : Instr) (s t : State) (w d e : Bool) (ag : List Event) (rs : List Reply), exec i s = .next t →
    exec i { s with wib := w, ieDone := d, ieErr := e, agenda := ag, replies := rs } =
      .next { t with wib := w, ieDone := d, ieErr := e, agenda := ag, replies := rs }

/-- R64(d), R66, R69: while a command is in flight, any number of host reads and writes other than a soft reset change
nothing of the CEB but WIB and the interrupt enables: the command's word and operands are at its completion what they were
at its acceptance. -/
def Obligations.BusyWindowIsIsolated : Prop :=
  ∀ (s : State) (evs rest : List Event), s.busy = true → s.agenda = evs ++ rest →
    (∀ e ∈ evs, (∃ a, e = .hostRead a) ∨ ∃ a v, e = .hostWrite a v ∧ ¬(a = 0x00004 ∧ v.getLsbD 0 = true)) →
    ∃ (w d e : Bool) (rs : List Reply), core.run evs.length s = .next
      { s with wib := w, ieDone := d, ieErr := e, agenda := rest, replies := rs }

/-- R64, R258: the machine becomes idle within as many steps as events are scheduled, and one more: no command stays in
flight for ever (the bound is the model's agenda, log 2; R258 gives only that it is finite). -/
def Obligations.CommandsCompleteInBoundedSteps : Prop :=
  ∀ s : State, ∃ t, core.run (s.agenda.length + 1) s = .next t ∧ t.busy = false ∧ t.agenda = []

/-! ### Host accesses

A host access is an event of the agenda (log 2), and its answer stands at the head of `replies` (log 3). -/

/-- R110: acceptance. A write of `cw` to CMD while idle sets the command word and BUSY and clears DONE, ERR and ERRCODE, and
nothing else of the CEB; the interrupt line falls; while busy the write is ignored. -/
def Obligations.AcceptanceStartsCommand : Prop :=
  ∀ (s : State) (cw : Word) (rest : List Event), s.agenda = .hostWrite 0x0000C cw :: rest →
    (s.busy = false → ∃ t, step s = .next t ∧ t.irq = false ∧
      t = { s with
        cmdCur := cw, busy := true, done := false, err := false, errcode := 0
        agenda := rest, replies := .ack :: s.replies }) ∧
    (s.busy = true → step s = .next { s with wib := true, agenda := rest, replies := .ack :: s.replies })

/-- R69: while busy a write to any mapped, aligned address other than CTRL changes nothing but `wib`, with a normal
response. -/
def Obligations.BusyWritesAreIgnored : Prop :=
  ∀ (s : State) (a : Addr) (v : Word) (rest : List Event), s.busy = true → s.agenda = .hostWrite a v :: rest →
    a.toNat % 4 = 0 → mapped s.cfg.bufBytes a.toNat → a ≠ 0x00004 →
    step s = .next { s with wib := true, agenda := rest, replies := .ack :: s.replies }

/-- R52: a misaligned or unmapped access gets the error response and changes nothing, not even `wib`; an aligned, mapped
access does not get it. -/
def Obligations.BadAccessChangesNothing : Prop :=
  ∀ (s : State) (a : Addr) (v : Word) (rest : List Event),
    (¬(a.toNat % 4 = 0 ∧ mapped s.cfg.bufBytes a.toNat) →
      (s.agenda = .hostRead a :: rest →
        ∃ e, step s = .next { s with agenda := rest, replies := .error e :: s.replies }) ∧
      (s.agenda = .hostWrite a v :: rest →
        ∃ e, step s = .next { s with agenda := rest, replies := .error e :: s.replies })) ∧
    (a.toNat % 4 = 0 ∧ mapped s.cfg.bufBytes a.toNat →
      (s.agenda = .hostRead a :: rest →
        ∃ w, step s = .next { s with agenda := rest, replies := .data w :: s.replies }) ∧
      (s.agenda = .hostWrite a v :: rest → ∃ t, step s = .next t ∧ t.replies = .ack :: s.replies))

/-- R62: a read changes nothing of the CEB, and two reads of one address in a row get the same answer. -/
def Obligations.ReadsHaveNoSideEffect : Prop :=
  ∀ (s : State) (a : Addr) (rest : List Event), s.agenda = .hostRead a :: .hostRead a :: rest →
    ∃ r : Reply, core.run 2 s = .next { s with agenda := rest, replies := r :: r :: s.replies }

/-- R53, R55: what a host read returns at each mapped address, busy or idle: the scalar registers as numbers, KEYIN as zero,
and of the byte strings the four bytes from the address up, the lowest in the lowest lane. -/
def Obligations.ReadsShowTheElements : Prop :=
  ∀ (s : State) (rest : List Event),
    let reads (a : Nat) (w : Word) : Prop := s.agenda = .hostRead (BitVec.ofNat 18 a) :: rest →
      step s = .next { s with agenda := rest, replies := .data w :: s.replies }
    let word (f : Nat → Byte) (k : Nat) : Word := f (k + 3) ++ f (k + 2) ++ f (k + 1) ++ f k
    (reads 0x00 0x4C4C4107 ∧ reads 0x04 s.ctrlWord ∧ reads 0x08 s.statusWord ∧ reads 0x0C s.cmdCur ∧
      reads 0x10 (s.outlen.setWidth 32) ∧ reads 0x14 (s.maclen.setWidth 32) ∧ reads 0x18 (s.crc16Acc.setWidth 32) ∧
      reads 0x1C (s.crc32Acc ^^^ 0xFFFFFFFF) ∧ reads 0x20 s.ctxS.statusWord ∧ reads 0x24 s.ctxX.statusWord) ∧
    ∀ k, k % 4 = 0 →
      (k < 24 → reads (0x40 + k) 0) ∧
      (k < 16 →
        reads (0x60 + k) (word (fun i => s.ctxS.iv.getD i 0) k) ∧ reads (0x70 + k) (word (fun i => s.ctxX.iv.getD i 0) k) ∧
        reads (0x80 + k) (word (fun i => s.k1.getD i 0) k) ∧ reads (0x90 + k) (word (fun i => s.k2.getD i 0) k) ∧
        reads (0xA0 + k) (word (fun i => s.mac.getD i 0) k) ∧ reads (0xB0 + k) (word (fun i => s.expect.getD i 0) k)) ∧
      (k < s.cfg.bufBytes →
        reads (0x10000 + k) (word (Memory.read s.din) k) ∧ reads (0x20000 + k) (word (Memory.read s.dout) k))

/-- R56: while idle a write to a read-only register (ID, OUTLEN, MACLEN, CRC16, CRC32, CTXS, CTXX, K1, K2, MAC, DOUT) gets
the normal response and changes nothing. -/
def Obligations.ReadOnlyRegistersIgnoreWrites : Prop :=
  ∀ (s : State) (a : Addr) (v : Word) (rest : List Event), s.busy = false → s.agenda = .hostWrite a v :: rest →
    a.toNat % 4 = 0 →
    (a.toNat = 0x00 ∨ (0x10 ≤ a.toNat ∧ a.toNat < 0x28) ∨ (0x80 ≤ a.toNat ∧ a.toNat < 0xB0) ∨
      (0x20000 ≤ a.toNat ∧ a.toNat < 0x20000 + s.cfg.bufBytes)) →
    step s = .next { s with agenda := rest, replies := .ack :: s.replies }

/-- R58: a write to STATUS while idle clears DONE, ERR with ERRCODE, and WIB, each where the written bit is 1, and nothing
else. -/
def Obligations.StatusWriteClearsFlags : Prop :=
  ∀ (s : State) (v : Word) (rest : List Event), s.busy = false → s.agenda = .hostWrite 0x00008 v :: rest →
    step s = .next
      { s with
        done := if v.getLsbD 1 then false else s.done
        err := if v.getLsbD 2 then false else s.err
        errcode := if v.getLsbD 2 then 0 else s.errcode
        wib := if v.getLsbD 3 then false else s.wib
        agenda := rest, replies := .ack :: s.replies }

/-- R59: a write to CTRL is honoured whether busy or not: with bit 0 the soft reset, without it the two enables. -/
def Obligations.CtrlWriteIsAlwaysHonoured : Prop :=
  ∀ (s : State) (v : Word) (rest : List Event), s.agenda = .hostWrite 0x00004 v :: rest →
    (v.getLsbD 0 = true →
      step s = .next { s with toCeb := State.reset.toCeb, agenda := rest, replies := .ack :: s.replies }) ∧
    (v.getLsbD 0 = false →
      step s = .next
        { s with ieDone := v.getLsbD 1, ieErr := v.getLsbD 2, agenda := rest, replies := .ack :: s.replies })

/-- R252: the three ways of clearing, compared: what reset, CLRCTX s and CLRCTX x clear and what they keep. -/
def Obligations.ThreeWaysOfClearing : Prop :=
  ∀ (s : State) (rest : List Event),
    (∀ v : Word, v.getLsbD 0 = true → s.agenda = .hostWrite 0x00004 v :: rest →
      step s = .next { s with toCeb := State.reset.toCeb, agenda := rest, replies := .ack :: s.replies }) ∧
    (s.agenda = .rst :: rest → step s = .next { s with toCeb := State.reset.toCeb, agenda := rest }) ∧
    (s.busy = false → s.agenda = .hostWrite 0x0000C 0x00000001 :: .engine :: rest →
      core.run 2 s = .next
        { s with
          toCeb := { State.reset.toCeb with
            ctxX := s.ctxX, ieDone := s.ieDone, ieErr := s.ieErr, wib := s.wib, cmdCur := 0x00000001, done := true }
          agenda := rest, replies := .ack :: s.replies }) ∧
    (s.busy = false → s.agenda = .hostWrite 0x0000C 0x00000101 :: .engine :: rest →
      core.run 2 s = .next
        { s with
          ctxX := State.reset.ctxX, cmdCur := 0x00000101, busy := false, done := true, err := false, errcode := 0
          agenda := rest, replies := .ack :: s.replies }) ∧
    (s.busy = true → ∀ cw : Word, cw = 0x00000001 ∨ cw = 0x00000101 → s.agenda = .hostWrite 0x0000C cw :: rest →
      step s = .next { s with wib := true, agenda := rest, replies := .ack :: s.replies })

/-- R60: a write inside IVS or IVX while idle: each byte of the word is stored where its index is below `bsc(c)` and is 0
elsewhere; the other bytes and everything else stay. -/
def Obligations.IvWriteIsMasked : Prop :=
  ∀ (s : State) (c : CtxSel) (k : Nat) (v : Word) (rest : List Event), s.busy = false → k % 4 = 0 → k < 16 →
    s.agenda = .hostWrite (BitVec.ofNat 18 ((match c with | .s => 0x60 | .x => 0x70) + k)) v :: rest →
    ∃ t, step s = .next t ∧
      t = { s.setCtx c (t.ctx c) with agenda := rest, replies := .ack :: s.replies } ∧
      t.ctx c = { s.ctx c with iv := (t.ctx c).iv } ∧
      (∀ j, j < 4 → (t.ctx c).iv.getD (k + j) 0 = if k + j < (s.ctx c).bsc then v.extractLsb' (8 * j) 8 else 0) ∧
      ∀ i, i < k ∨ k + 4 ≤ i → (t.ctx c).iv.getD i 0 = (s.ctx c).iv.getD i 0

/-- R53, R56, R61: a word written to DIN while idle puts its lanes, lowest first, at the four bytes from the address up,
leaves every other byte and everything else alone, and reads back. -/
def Obligations.DinWriteReadsBack : Prop :=
  ∀ (s : State) (k : Nat) (v : Word) (rest : List Event), s.busy = false → Memory.wf s.din → k % 4 = 0 →
    k < s.cfg.bufBytes →
    s.agenda = .hostWrite (BitVec.ofNat 18 (0x10000 + k)) v :: .hostRead (BitVec.ofNat 18 (0x10000 + k)) :: rest →
    ∃ t, core.run 2 s = .next t ∧
      t = { s with din := t.din, agenda := rest, replies := .data v :: .ack :: s.replies } ∧
      (∀ j, j < 4 → Memory.read t.din (k + j) = v.extractLsb' (8 * j) 8) ∧
      ∀ i, i < k ∨ k + 4 ≤ i → Memory.read t.din i = Memory.read s.din i

/-- R27, R30, R53, R56: a word written to KEYIN or EXPECT while idle puts its lanes, lowest first, at the four bytes from
the address up, and changes nothing else. -/
def Obligations.KeyinAndExpectWritesStoreLanes : Prop :=
  ∀ (s : State) (k : Nat) (v : Word) (rest : List Event), s.busy = false → k % 4 = 0 →
    (k < 24 → s.agenda = .hostWrite (BitVec.ofNat 18 (0x40 + k)) v :: rest →
      ∃ t, step s = .next t ∧ t = { s with keyin := t.keyin, agenda := rest, replies := .ack :: s.replies } ∧
        (∀ j, j < 4 → t.keyin.getD (k + j) 0 = v.extractLsb' (8 * j) 8) ∧
        ∀ i, i < k ∨ k + 4 ≤ i → t.keyin.getD i 0 = s.keyin.getD i 0) ∧
    (k < 16 → s.agenda = .hostWrite (BitVec.ofNat 18 (0xB0 + k)) v :: rest →
      ∃ t, step s = .next t ∧ t = { s with expect := t.expect, agenda := rest, replies := .ack :: s.replies } ∧
        (∀ j, j < 4 → t.expect.getD (k + j) 0 = v.extractLsb' (8 * j) 8) ∧
        ∀ i, i < k ∨ k + 4 ≤ i → t.expect.getD i 0 = s.expect.getD i 0)

/-- R23, R27, R68: no read path to a key: two machines that differ only in the bytes of the keys and of KEYIN, with the
same single-DES detection, give the host the same answer to every read. -/
def Obligations.KeysCannotBeRead : Prop :=
  ∀ (s : State) (keyS keyX keyin' : Vector Byte 24) (a : Addr),
    ({ s.ctxS with key := keyS } : Ctx).sdes = s.ctxS.sdes → ({ s.ctxX with key := keyX } : Ctx).sdes = s.ctxX.sdes →
    (State.hostRead
      { s with ctxS := { s.ctxS with key := keyS }, ctxX := { s.ctxX with key := keyX }, keyin := keyin' } a).replies =
      (s.hostRead a).replies

/-- R42, R225, R226: `irq` is the level `(ie_done and done) or (ie_err and err)`; it is 0 after an acceptance, after a
STATUS write that clears both flags, after a CTRL write that clears both enables, and after reset. -/
def Obligations.InterruptFollowsFlags : Prop :=
  ∀ s : State, (s.irq = true ↔ (s.ieDone = true ∧ s.done = true) ∨ (s.ieErr = true ∧ s.err = true)) ∧
    (∀ cw, (s.accept cw).irq = false) ∧ (s.acknowledge 0x00000006).irq = false ∧ (s.writeCtrl 0).irq = false ∧
    s.resetCeb.irq = false

/-- R26, R35, R36, R39: what a host reads at STATUS, CTRL, CTXS and CTXX, bit by bit. -/
def Obligations.StatusViewsShowTheFlags : Prop :=
  (∀ s : State, s.statusWord.toNat = s.busy.toNat + 2 * s.done.toNat + 4 * s.err.toNat + 8 * s.wib.toNat +
    256 * s.errcode.toNat) ∧
  (∀ s : State, s.ctrlWord.toNat = 2 * s.ieDone.toNat + 4 * s.ieErr.toNat) ∧
  (∀ x : Ctx, x.statusWord.toNat = x.kv.toNat + 2 * x.kt.code.toNat + 8 * x.sdes.toNat + 256 * x.bsc) ∧
  (∀ x : Ctx, x.sdes = true ↔ x.kv = true ∧ x.kt = .tdes2 ∧ ∀ k, k < 8 → x.key.getD k 0 = x.key.getD (k + 8) 0)

/-! ### The result of each command, with everything it leaves alone

`err` and `errcode` stay as they are on completion without error (log 7); acceptance left them 0 (R110). -/

/-- R112: NOP completes in every state and writes nothing but BUSY and DONE. -/
def Obligations.NopResult : Prop := ∀ s : State, exec .nop s = .next { s with busy := false, done := true }

/-- R113: CLRCTX completes in every state: `s` clears the session context and the session data, `x` only the auxiliary
context. -/
def Obligations.ClrctxResult : Prop :=
  ∀ s : State,
    exec (.clrctx .s) s = .next
      { s with
        ctxS := { kv := false, kt := .des, key := Vector.replicate 24 0, iv := Vector.replicate 16 0 }
        keyin := Vector.replicate 24 0, k1 := Vector.replicate 16 0, k2 := Vector.replicate 16 0
        mac := Vector.replicate 16 0, maclen := 0, expect := Vector.replicate 16 0
        crc16Acc := 0x6363, crc32Acc := 0xFFFFFFFF, din := [], dout := [], outlen := 0
        busy := false, done := true } ∧
    exec (.clrctx .x) s = .next
      { s with
        ctxX := { kv := false, kt := .des, key := Vector.replicate 24 0, iv := Vector.replicate 16 0 }
        busy := false, done := true }

/-- R114: LOADKEY completes in every state: the context takes `klen(kt)` bytes of KEYIN and zeros, the key type, the
key-valid bit and a zero IV; KEYIN becomes zero; nothing else changes. -/
def Obligations.LoadkeyResult : Prop :=
  ∀ (s : State) (c : CtxSel) (kt : KeyType), ∃ key : Vector Byte 24,
    exec (.loadkey c kt) s = .next
      { s.setCtx c { kv := true, kt := kt, key := key, iv := Vector.replicate 16 0 } with
        keyin := Vector.replicate 24 0, busy := false, done := true } ∧
    ∀ k, key.getD k 0 = if k < keyLen kt then s.keyin.getD k 0 else 0

/-- R34, R142: ECB.ENC with a key and whole blocks inside the buffer: each block of DOUT below `len` is the encryption of
that block of DIN, the rest of DOUT stays, OUTLEN is `len`, and nothing else changes. -/
def Obligations.EcbEncResult : Prop :=
  ∀ (s : State) (c : CtxSel) (len : Nat), (s.ctx c).kv = true → Memory.wf s.dout → len ≤ s.cfg.bufBytes →
    len % blockSize (s.ctx c).kt = 0 →
    ∃ t, exec (.ecbEnc c len) s = .next t ∧
      t = { s with dout := t.dout, outlen := BitVec.ofNat 16 len, busy := false, done := true } ∧
      (∀ i j, i < len / blockSize (s.ctx c).kt → j < blockSize (s.ctx c).kt →
        Memory.read t.dout (i * blockSize (s.ctx c).kt + j) =
          (blkEnc (s.ctx c).kt (s.ctx c).key
            (Memory.readBytes s.din (i * blockSize (s.ctx c).kt) (blockSize (s.ctx c).kt))).getD j 0) ∧
      ∀ k, len ≤ k → Memory.read t.dout k = Memory.read s.dout k

/-- R34, R143: ECB.DEC, likewise with the decryption. -/
def Obligations.EcbDecResult : Prop :=
  ∀ (s : State) (c : CtxSel) (len : Nat), (s.ctx c).kv = true → Memory.wf s.dout → len ≤ s.cfg.bufBytes →
    len % blockSize (s.ctx c).kt = 0 →
    ∃ t, exec (.ecbDec c len) s = .next t ∧
      t = { s with dout := t.dout, outlen := BitVec.ofNat 16 len, busy := false, done := true } ∧
      (∀ i j, i < len / blockSize (s.ctx c).kt → j < blockSize (s.ctx c).kt →
        Memory.read t.dout (i * blockSize (s.ctx c).kt + j) =
          (blkDec (s.ctx c).kt (s.ctx c).key
            (Memory.readBytes s.din (i * blockSize (s.ctx c).kt) (blockSize (s.ctx c).kt))).getD j 0) ∧
      ∀ k, len ≤ k → Memory.read t.dout k = Memory.read s.dout k

/-- R160, R163, R164, R165: CBC.ENC with a key and an acceptable length: DOUT takes the CBC encryption of the input, which
PAD extends with zeros to whole blocks; OUTLEN is the length of that message; with UIV and at least one block the selected
IV becomes the final block; nothing else changes. -/
def Obligations.CbcEncResult : Prop :=
  ∀ (s : State) (c : CtxSel) (uiv ziv pad : Bool) (len : Nat), (s.ctx c).kv = true → Memory.wf s.dout →
    len ≤ s.cfg.bufBytes → (pad = true ∨ len % blockSize (s.ctx c).kt = 0) →
    let bs := blockSize (s.ctx c).kt
    let m := Memory.readBytes s.din 0 len ++ List.replicate (if pad then (bs - len % bs) % bs else 0) 0
    let iv0 := if ziv then List.replicate bs 0 else (s.ctx c).iv.toList.take bs
    let r := cbcEnc (s.ctx c).kt (s.ctx c).key iv0 m
    ∃ t, exec (.cbcEnc c uiv ziv pad len) s = .next t ∧
      t = { s.setCtx c
              { s.ctx c with iv := if uiv = true ∧ 0 < m.length then fixBytes 16 r.2 else (s.ctx c).iv } with
            dout := t.dout, outlen := BitVec.ofNat 16 m.length, busy := false, done := true } ∧
      m.length ≤ s.cfg.bufBytes ∧
      (∀ k, k < m.length → Memory.read t.dout k = r.1.getD k 0) ∧
      ∀ k, m.length ≤ k → Memory.read t.dout k = Memory.read s.dout k

/-- R160, R164, R166: CBC.DEC with a key and whole blocks: DOUT takes the CBC decryption of the input; with UIV and at
least one block the selected IV becomes the last block of the INPUT; nothing else changes. -/
def Obligations.CbcDecResult : Prop :=
  ∀ (s : State) (c : CtxSel) (uiv ziv : Bool) (len : Nat), (s.ctx c).kv = true → Memory.wf s.dout →
    len ≤ s.cfg.bufBytes → len % blockSize (s.ctx c).kt = 0 →
    let bs := blockSize (s.ctx c).kt
    let iv0 := if ziv then List.replicate bs 0 else (s.ctx c).iv.toList.take bs
    let r := cbcDec (s.ctx c).kt (s.ctx c).key iv0 (Memory.readBytes s.din 0 len)
    ∃ t, exec (.cbcDec c uiv ziv len) s = .next t ∧
      t = { s.setCtx c
              { s.ctx c with
                iv := if uiv = true ∧ 0 < len then fixBytes 16 (Memory.readBytes s.din (len - bs) bs)
                  else (s.ctx c).iv } with
            dout := t.dout, outlen := BitVec.ofNat 16 len, busy := false, done := true } ∧
      (∀ k, k < len → Memory.read t.dout k = r.1.getD k 0) ∧
      ∀ k, len ≤ k → Memory.read t.dout k = Memory.read s.dout k

/-- R29, R160, R163, R164, R167: CBC.MAC with a key and an acceptable, non-zero length: MAC takes the final block of the
CBC encryption and zeros, MACLEN the block size; with UIV the selected IV becomes that block; nothing else changes, DOUT
and OUTLEN among it. -/
def Obligations.CbcMacResult : Prop :=
  ∀ (s : State) (c : CtxSel) (uiv ziv pad : Bool) (len : Nat), (s.ctx c).kv = true → 0 < len →
    len ≤ s.cfg.bufBytes → (pad = true ∨ len % blockSize (s.ctx c).kt = 0) →
    let bs := blockSize (s.ctx c).kt
    let m := Memory.readBytes s.din 0 len ++ List.replicate (if pad then (bs - len % bs) % bs else 0) 0
    let iv0 := if ziv then List.replicate bs 0 else (s.ctx c).iv.toList.take bs
    let last := (cbcEnc (s.ctx c).kt (s.ctx c).key iv0 m).2
    exec (.cbcMac c uiv ziv pad len) s = .next
      { s.setCtx c { s.ctx c with iv := if uiv then fixBytes 16 last else (s.ctx c).iv } with
        mac := fixBytes 16 last, maclen := BitVec.ofNat 5 bs, busy := false, done := true }

/-- R28, R182, R187: SUBK with a key: K1 is the doubling of the encrypted zero block, K2 the doubling of K1, each followed
by zeros; nothing else changes. -/
def Obligations.SubkResult : Prop :=
  ∀ (s : State) (c : CtxSel), (s.ctx c).kv = true →
    let l := blkEnc (s.ctx c).kt (s.ctx c).key (List.replicate (blockSize (s.ctx c).kt) 0)
    exec (.subk c) s = .next
      { s with
        k1 := fixBytes 16 (dbl (s.ctx c).kt l), k2 := fixBytes 16 (dbl (s.ctx c).kt (dbl (s.ctx c).kt l))
        busy := false, done := true }

/-- R29, R160, R182, R184, R185, R186, R188: CMAC with a key and a non-zero length inside the buffer, without VFY or with the
expected MAC in EXPECT: K1 and K2, the 8-byte MAC and zeros, MACLEN 8, and with UIV the whole final block into the
selected IV; nothing else changes. -/
def Obligations.CmacResult : Prop :=
  ∀ (s : State) (c : CtxSel) (uiv ziv vfy : Bool) (len : Nat), (s.ctx c).kv = true → 0 < len →
    len ≤ s.cfg.bufBytes → (vfy = true → s.computedMac c ziv len = s.expect.toList.take 8) →
    let bs := blockSize (s.ctx c).kt
    let iv0 := if ziv then List.replicate bs 0 else (s.ctx c).iv.toList.take bs
    let k1 := dbl (s.ctx c).kt (blkEnc (s.ctx c).kt (s.ctx c).key (List.replicate bs 0))
    let k2 := dbl (s.ctx c).kt k1
    let last := (cbcEnc (s.ctx c).kt (s.ctx c).key iv0 (cmacMessage bs k1 k2 (Memory.readBytes s.din 0 len))).2
    exec (.cmac c uiv ziv vfy len) s = .next
      { s.setCtx c { s.ctx c with iv := if uiv then fixBytes 16 last else (s.ctx c).iv } with
        k1 := fixBytes 16 k1, k2 := fixBytes 16 k2
        mac := fixBytes 16 ((last.drop (bs - 8)).take 8), maclen := 8, busy := false, done := true }

/-- R189, R224: a CMAC whose computed MAC is not the one in EXPECT completes with `E_INTEGRITY` and keeps every write of the
same command without VFY: only `err` and `errcode` differ. -/
def Obligations.IntegrityFailureKeepsWrites : Prop :=
  ∀ (s t : State) (c : CtxSel) (uiv ziv : Bool) (len : Nat), (s.ctx c).kv = true → 0 < len → len ≤ s.cfg.bufBytes →
    s.computedMac c ziv len ≠ s.expect.toList.take 8 → exec (.cmac c uiv ziv false len) s = .next t →
    exec (.cmac c uiv ziv true len) s = .next { t with err := true, errcode := 0x04 }

/-- R31, R202, R207: CRC16 with an acceptable length: the register runs over the input from its old value or from 0x6363;
with APP its two bytes, low byte first, follow the data in DIN; nothing else changes. -/
def Obligations.Crc16Result : Prop :=
  ∀ (s : State) (cont app : Bool) (len : Nat), Memory.wf s.din → len ≤ s.cfg.bufBytes →
    (app = true → len + 2 ≤ s.cfg.bufBytes) →
    let v := crc16Upd (if cont then s.crc16Acc else 0x6363) (Memory.readBytes s.din 0 len)
    ∃ t, exec (.crc16 cont app len) s = .next t ∧
      t = { s with crc16Acc := v, din := t.din, busy := false, done := true } ∧
      (app = false → t.din = s.din) ∧
      (app = true → ∀ k, Memory.read t.din k =
        if k = len then v.extractLsb' 0 8 else if k = len + 1 then v.extractLsb' 8 8 else Memory.read s.din k)

/-- R32, R205, R206, R208: CRC32 with an acceptable length: the register runs over the input from its old, unfinalized
value or from 0xFFFFFFFF; with APP the four bytes of the finalized value, least significant first, follow the data in DIN;
nothing else changes. -/
def Obligations.Crc32Result : Prop :=
  ∀ (s : State) (cont app : Bool) (len : Nat), Memory.wf s.din → len ≤ s.cfg.bufBytes →
    (app = true → len + 4 ≤ s.cfg.bufBytes) →
    let a := crc32Upd (if cont then s.crc32Acc else 0xFFFFFFFF) (Memory.readBytes s.din 0 len)
    let v := a ^^^ 0xFFFFFFFF
    ∃ t, exec (.crc32 cont app len) s = .next t ∧
      t = { s with crc32Acc := a, din := t.din, busy := false, done := true } ∧
      (app = false → t.din = s.din) ∧
      (app = true → ∀ k, Memory.read t.din k =
        if len ≤ k ∧ k < len + 4 then v.extractLsb' (8 * (k - len)) 8 else Memory.read s.din k)

/-! ### Errors -/

/-- R221, R222: a command in flight, its flags clear as acceptance leaves them, completes with exactly the error the causes
give, the first in the order E_ILLCMD, E_STATE, E_LENGTH, E_INTEGRITY, or without error where none holds. -/
def Obligations.ErrorsHaveExactlyTheirCauses : Prop :=
  ∀ (s : State) (rest : List Event), s.busy = true → s.agenda = .engine :: rest → s.err = false → s.errcode = 0 →
    ∃ t, step s = .next t ∧ t.busy = false ∧ t.done = true ∧
      match decode s.cmdCur with
      | .error _ => t.err = true ∧ t.errcode = 0x01
      | .ok i =>
        (stateCause i s → t.err = true ∧ t.errcode = 0x02) ∧
        (¬stateCause i s → lengthCause i s → t.err = true ∧ t.errcode = 0x03) ∧
        (¬stateCause i s → ¬lengthCause i s → integrityCause i s → t.err = true ∧ t.errcode = 0x04) ∧
        (¬stateCause i s → ¬lengthCause i s → ¬integrityCause i s → t.err = false ∧ t.errcode = 0)

/-- R223: a command that ends with E_ILLCMD, E_STATE or E_LENGTH writes nothing but the status flags. -/
def Obligations.FailedChecksWriteNothing : Prop :=
  ∀ (s t : State) (rest : List Event), s.busy = true → s.agenda = .engine :: rest → s.err = false → s.errcode = 0 →
    step s = .next t → (t.errcode = 0x01 ∨ t.errcode = 0x02 ∨ t.errcode = 0x03) →
    t = { s with busy := false, done := true, err := true, errcode := t.errcode, agenda := rest }

/-! ### The block functions -/

/-- R120, R130, R141: the block functions of every key type invert each other on every block of the key type's size. -/
def Obligations.BlockFunctionsInvert : Prop :=
  ∀ (kt : KeyType) (key : Vector Byte 24) (b : Bytes), b.length = blockSize kt →
    blkDec kt key (blkEnc kt key b) = b ∧ blkEnc kt key (blkDec kt key b) = b

/-- R129, R132, R140, R141: the block functions on the worked examples of their rules, one for each key type and direction
written there. -/
def Obligations.BlockFunctionsOnWorkedExamples : Prop :=
  let quic : Bytes := [0x54, 0x68, 0x65, 0x20, 0x71, 0x75, 0x69, 0x63]
  let key : Vector Byte 24 := fixBytes 24
    [0x01, 0x23, 0x45, 0x67, 0x89, 0xAB, 0xCD, 0xEF, 0x23, 0x45, 0x67, 0x89, 0xAB, 0xCD, 0xEF, 0x01,
      0x45, 0x67, 0x89, 0xAB, 0xCD, 0xEF, 0x01, 0x23]
  let aes : Vector Byte 24 := fixBytes 24 [0, 1, 2, 3, 4, 5, 6, 7, 8, 9, 10, 11, 12, 13, 14, 15]
  let block : Bytes :=
    [0x00, 0x11, 0x22, 0x33, 0x44, 0x55, 0x66, 0x77, 0x88, 0x99, 0xAA, 0xBB, 0xCC, 0xDD, 0xEE, 0xFF]
  desEnc [0x13, 0x34, 0x57, 0x79, 0x9B, 0xBC, 0xDF, 0xF1] [0x01, 0x23, 0x45, 0x67, 0x89, 0xAB, 0xCD, 0xEF] =
    [0x85, 0xE8, 0x13, 0x54, 0x0F, 0x0A, 0xB4, 0x05] ∧
  blkEnc .des key quic = [0xA3, 0xC6, 0xE8, 0x31, 0xAD, 0x65, 0x48, 0x80] ∧
  blkEnc .tdes2 key quic = [0x04, 0xA3, 0xAA, 0xA7, 0x95, 0x4D, 0xF2, 0x41] ∧
  blkEnc .tdes3 key quic = [0x1C, 0xCF, 0x23, 0x86, 0x9D, 0x09, 0x33, 0x3E] ∧
  blkEnc .aes aes block =
    [0x69, 0xC4, 0xE0, 0xD8, 0x6A, 0x7B, 0x04, 0x30, 0xD8, 0xCD, 0xB7, 0x80, 0x70, 0xB4, 0xC5, 0x5A] ∧
  blkDec .aes (Vector.replicate 24 0) (List.replicate 16 0) =
    [0x14, 0x0F, 0x0F, 0x10, 0x11, 0xB5, 0x22, 0x3D, 0x79, 0x58, 0x77, 0x17, 0xFF, 0xD9, 0xEC, 0x3A]

/-- R131: PC1 holds no multiple of 8; two keys that differ only in the low bits of their bytes give the same DES results,
and so the same results of every key type of the DES family. -/
def Obligations.ParityBitsAreIgnored : Prop :=
  (∀ k ∈ desPC1, k % 8 ≠ 0) ∧
  (∀ k l b : Bytes, k.length = 8 → l.length = 8 → (∀ i, k.getD i 0 &&& 0xFE = l.getD i 0 &&& 0xFE) →
    desEnc k b = desEnc l b ∧ desDec k b = desDec l b) ∧
  (∀ (kt : KeyType) (k l : Vector Byte 24) (b : Bytes), kt ≠ .aes →
    (∀ i, k.getD i 0 &&& 0xFE = l.getD i 0 &&& 0xFE) → blkEnc kt k b = blkEnc kt l b ∧ blkDec kt k b = blkDec kt l b)

/-- R133: with equal halves two-key triple DES is single DES, in both directions. -/
def Obligations.EqualHalvesGiveSingleDes : Prop :=
  ∀ (key : Vector Byte 24) (b : Bytes), b.length = 8 → (∀ k, k < 8 → key.getD k 0 = key.getD (k + 8) 0) →
    blkEnc .tdes2 key b = blkEnc .des key b ∧ blkDec .tdes2 key b = blkDec .des key b

/-- R136, R137: the S-box table is the field inverse followed by the affine map, and the inverse table inverts it. -/
def Obligations.SBoxTablesAreTheFieldInverse : Prop :=
  (∀ x : Byte, aesInvSBox (aesSBox x) = x ∧ aesSBox (aesInvSBox x) = x) ∧
  (∀ x : Byte, ∃ y : Byte, (x = 0 → y = 0) ∧ (x ≠ 0 → gmul x y = 1) ∧
    aesSBox x = y ^^^ y.rotateLeft 1 ^^^ y.rotateLeft 2 ^^^ y.rotateLeft 3 ^^^ y.rotateLeft 4 ^^^ 0x63)

/-! ### Chains and MACs -/

/-- R181: the doubling is one left shift of the block as a big-endian number, with the constant combined exactly when the
top bit was set. -/
def Obligations.DoublingIsOneShiftOfANumber : Prop :=
  ∀ (kt : KeyType) (b : Bytes), b.length = blockSize kt →
    (dbl kt b).length = blockSize kt ∧
    be (dbl kt b) = (be b * 2 % 2 ^ (8 * blockSize kt)) ^^^
      (if 2 ^ (8 * blockSize kt - 1) ≤ be b then (match kt with | .aes => 0x87 | _ => 0x1B) else 0)

/-- R183: the CMAC message: whole blocks, the least number that holds the data; unpadded with K1 or padded `80 00 ..` with
K2; every byte before the last block is the data's own. -/
def Obligations.CmacPaddingChoosesSubkey : Prop :=
  ∀ (bs : Nat) (k1 k2 d : Bytes), 0 < bs → 0 < d.length → k1.length = bs → k2.length = bs →
    let m := cmacMessage bs k1 k2 d
    m.length % bs = 0 ∧ d.length ≤ m.length ∧ m.length < d.length + bs ∧
    (∀ i, i < m.length - bs → m.getD i 0 = d.getD i 0) ∧
    (∀ j, j < bs → m.getD (m.length - bs + j) 0 =
      if d.length % bs = 0 then d.getD (m.length - bs + j) 0 ^^^ k1.getD j 0
      else (if m.length - bs + j < d.length then d.getD (m.length - bs + j) 0
        else if m.length - bs + j = d.length then 0x80 else 0) ^^^ k2.getD j 0)

/-- R161: the CBC encryption chain, block by block: `C_i = BlkEnc(M_i xor C_(i-1))` from the starting value, and `last` the
final block, or the starting value when there is none. -/
def Obligations.CbcEncryptionChains : Prop :=
  ∀ (kt : KeyType) (key : Vector Byte 24) (iv0 m : Bytes), iv0.length = blockSize kt →
    m.length % blockSize kt = 0 →
    let bs := blockSize kt
    let r := cbcEnc kt key iv0 m
    let blk (x : Bytes) (i : Nat) : Bytes := (x.drop (i * bs)).take bs
    r.1.length = m.length ∧
    (∀ i, i < m.length / bs →
      blk r.1 i = blkEnc kt key (xorBytes (blk m i) (if i = 0 then iv0 else blk r.1 (i - 1)))) ∧
    r.2 = if m.length = 0 then iv0 else r.1.drop (m.length - bs)

/-- R162: the CBC decryption chain, block by block: `P_i = BlkDec(C_i) xor C_(i-1)` from the starting value, and `last` the
last block of the input; it undoes CBC encryption, and both hand on the same chaining value, so that the two sides stay in
step. -/
def Obligations.CbcDecryptionUndoesEncryption : Prop :=
  ∀ (kt : KeyType) (key : Vector Byte 24) (iv0 m : Bytes), iv0.length = blockSize kt →
    m.length % blockSize kt = 0 →
    let bs := blockSize kt
    let blk (x : Bytes) (i : Nat) : Bytes := (x.drop (i * bs)).take bs
    ((cbcDec kt key iv0 m).1.length = m.length ∧
      (∀ i, i < m.length / bs → blk (cbcDec kt key iv0 m).1 i =
        xorBytes (blkDec kt key (blk m i)) (if i = 0 then iv0 else blk m (i - 1))) ∧
      (cbcDec kt key iv0 m).2 = if m.length = 0 then iv0 else m.drop (m.length - bs)) ∧
    (cbcDec kt key iv0 (cbcEnc kt key iv0 m).1).1 = m ∧
      (cbcDec kt key iv0 (cbcEnc kt key iv0 m).1).2 = (cbcEnc kt key iv0 m).2

/-- R168: a message of whole blocks cut in two, the second part started from what the first hands on, gives the bytes and
the chaining value of the uncut message; for encryption and decryption. -/
def Obligations.ChainsFragment : Prop :=
  ∀ (kt : KeyType) (key : Vector Byte 24) (iv0 m1 m2 : Bytes), m1.length % blockSize kt = 0 →
    m2.length % blockSize kt = 0 →
    cbcEnc kt key iv0 (m1 ++ m2) =
      ((cbcEnc kt key iv0 m1).1 ++ (cbcEnc kt key (cbcEnc kt key iv0 m1).2 m2).1,
        (cbcEnc kt key (cbcEnc kt key iv0 m1).2 m2).2) ∧
    cbcDec kt key iv0 (m1 ++ m2) =
      ((cbcDec kt key iv0 m1).1 ++ (cbcDec kt key (cbcDec kt key iv0 m1).2 m2).1,
        (cbcDec kt key (cbcDec kt key iv0 m1).2 m2).2)

/-- R162, R164, R166: sender and receiver stay in step. Both contexts hold one key and one IV; the sender runs CBC.ENC on S
with UIV; the host copies DOUT to DIN; the receiver runs CBC.DEC on X over OUTLEN bytes with UIV. The receiver's DOUT is
the sender's message, and both IVs are equal again. -/
def Obligations.SenderAndReceiverStayInStep : Prop :=
  ∀ (s t : State) (ziv pad : Bool) (len : Nat), s.Inv → s.ctxS.kv = true → s.ctxX = s.ctxS →
    len ≤ s.cfg.bufBytes → (pad = true ∨ len % blockSize s.ctxS.kt = 0) →
    exec (.cbcEnc .s true ziv pad len) s = .next t →
    ∃ u, exec (.cbcDec .x true ziv t.outlen.toNat) { t with din := t.dout } = .next u ∧
      u.ctxX = u.ctxS ∧ u.outlen = t.outlen ∧ len ≤ t.outlen.toNat ∧
      (∀ k, k < len → Memory.read u.dout k = Memory.read s.din k) ∧
      ∀ k, len ≤ k → k < t.outlen.toNat → Memory.read u.dout k = 0

/-- R164, R165, R168: a transfer in two fragments. CBC.ENC with UIV over `n` bytes, then over `m` bytes that the host put
into DIN, gives the ciphertext and the IV of one CBC.ENC with UIV over the `n + m` bytes together. -/
def Obligations.FragmentedTransferIsOneTransfer : Prop :=
  ∀ (s t u w : State) (c : CtxSel) (n m : Nat) (next whole : Memory), s.Inv → (s.ctx c).kv = true →
    n % blockSize (s.ctx c).kt = 0 → m % blockSize (s.ctx c).kt = 0 → n + m ≤ s.cfg.bufBytes →
    (∀ k, k < n → Memory.read whole k = Memory.read s.din k) →
    (∀ k, k < m → Memory.read whole (n + k) = Memory.read next k) →
    exec (.cbcEnc c true false false n) s = .next t →
    exec (.cbcEnc c true false false m) { t with din := next } = .next u →
    exec (.cbcEnc c true false false (n + m)) { s with din := whole } = .next w →
    w.ctx c = u.ctx c ∧ (∀ k, k < n → Memory.read w.dout k = Memory.read t.dout k) ∧
      ∀ k, k < m → Memory.read w.dout (n + k) = Memory.read u.dout k

/-! ### CRCs -/

/-- R201: the CRC16 update: the byte-at-a-time form, the rule's step example, and that it runs over a string in pieces. -/
def Obligations.Crc16ByteForm : Prop :=
  (∀ (acc : BitVec 16) (b : Byte),
    let t0 := b ^^^ acc.extractLsb' 0 8
    let t := (t0 ^^^ (t0 <<< 4)).setWidth 16
    crc16Upd acc [b] = (acc >>> 8) ^^^ (t <<< 8) ^^^ (t <<< 3) ^^^ (t >>> 4)) ∧
  crc16Upd 0x6363 [0x12] = 0x626D ∧ crc16Upd 0x6363 [0x12, 0x34] = 0xCF26 ∧
  ∀ (a : BitVec 16) (d1 d2 : Bytes), crc16Upd (crc16Upd a d1) d2 = crc16Upd a (d1 ++ d2)

/-- R204: the CRC32 update: the table-driven form, its check values, and that it runs over a string in pieces. -/
def Obligations.Crc32TableForm : Prop :=
  let table (i : Byte) : BitVec 32 := crcShifts 0xEDB88320 8 (i.setWidth 32)
  (∀ (acc : BitVec 32) (b : Byte), crc32Upd acc [b] = (acc >>> 8) ^^^ table (acc.extractLsb' 0 8 ^^^ b)) ∧
  table 0 = 0x00000000 ∧ table 1 = 0x77073096 ∧ table 2 = 0xEE0E612C ∧ table 3 = 0x990951BA ∧
  table 128 = 0xEDB88320 ∧ table 255 = 0x2D02EF8D ∧
  ∀ (a : BitVec 32) (d1 d2 : Bytes), crc32Upd (crc32Upd a d1) d2 = crc32Upd a (d1 ++ d2)

/-- R209: the residues: the CRC16 of any data and its two bytes is 0; the CRC32 of any data and its four bytes is
0x2144DF1C, the register then holding 0xDEBB20E3; and no CRC command raises E_INTEGRITY. -/
def Obligations.CrcResidues : Prop :=
  (∀ (a : BitVec 16) (d : Bytes), crc16Upd a (d ++ leBytes 2 (crc16Upd a d)) = 0) ∧
  (∀ d : Bytes, crc32Upd 0xFFFFFFFF (d ++ leBytes 4 (crc32Final (crc32Upd 0xFFFFFFFF d))) = 0xDEBB20E3) ∧
  crc32Final 0xDEBB20E3 = 0x2144DF1C ∧
  ∀ (s t : State) (cont app : Bool) (len : Nat), s.errcode = 0 →
    exec (.crc16 cont app len) s = .next t ∨ exec (.crc32 cont app len) s = .next t → t.errcode ≠ 0x04
end

