-- ==== Sys2Proof/Laws/State.lean ====
section
/-! SUPPORT. One lemma for each field and each named update of State, so that no proof unfolds a record update. -/

namespace Sys2Proof.Machine

/-! ### Completion without error (R111) -/

@[simp] theorem State.finish_ctxS (s : State) : (s.finish).ctxS = s.ctxS := rfl
@[simp] theorem State.finish_ctxX (s : State) : (s.finish).ctxX = s.ctxX := rfl
@[simp] theorem State.finish_keyin (s : State) : (s.finish).keyin = s.keyin := rfl
@[simp] theorem State.finish_k1 (s : State) : (s.finish).k1 = s.k1 := rfl
@[simp] theorem State.finish_k2 (s : State) : (s.finish).k2 = s.k2 := rfl
@[simp] theorem State.finish_mac (s : State) : (s.finish).mac = s.mac := rfl
@[simp] theorem State.finish_maclen (s : State) : (s.finish).maclen = s.maclen := rfl
@[simp] theorem State.finish_expect (s : State) : (s.finish).expect = s.expect := rfl
@[simp] theorem State.finish_crc16Acc (s : State) : (s.finish).crc16Acc = s.crc16Acc := rfl
@[simp] theorem State.finish_crc32Acc (s : State) : (s.finish).crc32Acc = s.crc32Acc := rfl
@[simp] theorem State.finish_din (s : State) : (s.finish).din = s.din := rfl
@[simp] theorem State.finish_dout (s : State) : (s.finish).dout = s.dout := rfl
@[simp] theorem State.finish_outlen (s : State) : (s.finish).outlen = s.outlen := rfl
@[simp] theorem State.finish_busy (s : State) : (s.finish).busy = false := rfl
@[simp] theorem State.finish_done (s : State) : (s.finish).done = true := rfl
@[simp] theorem State.finish_err (s : State) : (s.finish).err = s.err := rfl
@[simp] theorem State.finish_wib (s : State) : (s.finish).wib = s.wib := rfl
@[simp] theorem State.finish_errcode (s : State) : (s.finish).errcode = s.errcode := rfl
@[simp] theorem State.finish_cmdCur (s : State) : (s.finish).cmdCur = s.cmdCur := rfl
@[simp] theorem State.finish_ieDone (s : State) : (s.finish).ieDone = s.ieDone := rfl
@[simp] theorem State.finish_ieErr (s : State) : (s.finish).ieErr = s.ieErr := rfl
@[simp] theorem State.finish_cfg (s : State) : (s.finish).cfg = s.cfg := rfl
@[simp] theorem State.finish_agenda (s : State) : (s.finish).agenda = s.agenda := rfl
@[simp] theorem State.finish_replies (s : State) : (s.finish).replies = s.replies := rfl

/-! ### Completion with an error (R111, R227) -/

@[simp] theorem State.raise_ctxS (e : ErrKind) (s : State) : (s.raise e).ctxS = s.ctxS := rfl
@[simp] theorem State.raise_ctxX (e : ErrKind) (s : State) : (s.raise e).ctxX = s.ctxX := rfl
@[simp] theorem State.raise_keyin (e : ErrKind) (s : State) : (s.raise e).keyin = s.keyin := rfl
@[simp] theorem State.raise_k1 (e : ErrKind) (s : State) : (s.raise e).k1 = s.k1 := rfl
@[simp] theorem State.raise_k2 (e : ErrKind) (s : State) : (s.raise e).k2 = s.k2 := rfl
@[simp] theorem State.raise_mac (e : ErrKind) (s : State) : (s.raise e).mac = s.mac := rfl
@[simp] theorem State.raise_maclen (e : ErrKind) (s : State) : (s.raise e).maclen = s.maclen := rfl
@[simp] theorem State.raise_expect (e : ErrKind) (s : State) : (s.raise e).expect = s.expect := rfl
@[simp] theorem State.raise_crc16Acc (e : ErrKind) (s : State) : (s.raise e).crc16Acc = s.crc16Acc := rfl
@[simp] theorem State.raise_crc32Acc (e : ErrKind) (s : State) : (s.raise e).crc32Acc = s.crc32Acc := rfl
@[simp] theorem State.raise_din (e : ErrKind) (s : State) : (s.raise e).din = s.din := rfl
@[simp] theorem State.raise_dout (e : ErrKind) (s : State) : (s.raise e).dout = s.dout := rfl
@[simp] theorem State.raise_outlen (e : ErrKind) (s : State) : (s.raise e).outlen = s.outlen := rfl
@[simp] theorem State.raise_busy (e : ErrKind) (s : State) : (s.raise e).busy = false := rfl
@[simp] theorem State.raise_done (e : ErrKind) (s : State) : (s.raise e).done = true := rfl
@[simp] theorem State.raise_err (e : ErrKind) (s : State) : (s.raise e).err = true := rfl
@[simp] theorem State.raise_wib (e : ErrKind) (s : State) : (s.raise e).wib = s.wib := rfl
@[simp] theorem State.raise_errcode (e : ErrKind) (s : State) : (s.raise e).errcode = e.code := rfl
@[simp] theorem State.raise_cmdCur (e : ErrKind) (s : State) : (s.raise e).cmdCur = s.cmdCur := rfl
@[simp] theorem State.raise_ieDone (e : ErrKind) (s : State) : (s.raise e).ieDone = s.ieDone := rfl
@[simp] theorem State.raise_ieErr (e : ErrKind) (s : State) : (s.raise e).ieErr = s.ieErr := rfl
@[simp] theorem State.raise_cfg (e : ErrKind) (s : State) : (s.raise e).cfg = s.cfg := rfl
@[simp] theorem State.raise_agenda (e : ErrKind) (s : State) : (s.raise e).agenda = s.agenda := rfl
@[simp] theorem State.raise_replies (e : ErrKind) (s : State) : (s.raise e).replies = s.replies := rfl

/-! ### Acceptance (R110) -/

@[simp] theorem State.accept_ctxS (cw : Word) (s : State) : (s.accept cw).ctxS = s.ctxS := rfl
@[simp] theorem State.accept_ctxX (cw : Word) (s : State) : (s.accept cw).ctxX = s.ctxX := rfl
@[simp] theorem State.accept_keyin (cw : Word) (s : State) : (s.accept cw).keyin = s.keyin := rfl
@[simp] theorem State.accept_k1 (cw : Word) (s : State) : (s.accept cw).k1 = s.k1 := rfl
@[simp] theorem State.accept_k2 (cw : Word) (s : State) : (s.accept cw).k2 = s.k2 := rfl
@[simp] theorem State.accept_mac (cw : Word) (s : State) : (s.accept cw).mac = s.mac := rfl
@[simp] theorem State.accept_maclen (cw : Word) (s : State) : (s.accept cw).maclen = s.maclen := rfl
@[simp] theorem State.accept_expect (cw : Word) (s : State) : (s.accept cw).expect = s.expect := rfl
@[simp] theorem State.accept_crc16Acc (cw : Word) (s : State) : (s.accept cw).crc16Acc = s.crc16Acc := rfl
@[simp] theorem State.accept_crc32Acc (cw : Word) (s : State) : (s.accept cw).crc32Acc = s.crc32Acc := rfl
@[simp] theorem State.accept_din (cw : Word) (s : State) : (s.accept cw).din = s.din := rfl
@[simp] theorem State.accept_dout (cw : Word) (s : State) : (s.accept cw).dout = s.dout := rfl
@[simp] theorem State.accept_outlen (cw : Word) (s : State) : (s.accept cw).outlen = s.outlen := rfl
@[simp] theorem State.accept_busy (cw : Word) (s : State) : (s.accept cw).busy = true := rfl
@[simp] theorem State.accept_done (cw : Word) (s : State) : (s.accept cw).done = false := rfl
@[simp] theorem State.accept_err (cw : Word) (s : State) : (s.accept cw).err = false := rfl
@[simp] theorem State.accept_wib (cw : Word) (s : State) : (s.accept cw).wib = s.wib := rfl
@[simp] theorem State.accept_errcode (cw : Word) (s : State) : (s.accept cw).errcode = 0 := rfl
@[simp] theorem State.accept_cmdCur (cw : Word) (s : State) : (s.accept cw).cmdCur = cw := rfl
@[simp] theorem State.accept_ieDone (cw : Word) (s : State) : (s.accept cw).ieDone = s.ieDone := rfl
@[simp] theorem State.accept_ieErr (cw : Word) (s : State) : (s.accept cw).ieErr = s.ieErr := rfl
@[simp] theorem State.accept_cfg (cw : Word) (s : State) : (s.accept cw).cfg = s.cfg := rfl
@[simp] theorem State.accept_agenda (cw : Word) (s : State) : (s.accept cw).agenda = s.agenda := rfl
@[simp] theorem State.accept_replies (cw : Word) (s : State) : (s.accept cw).replies = s.replies := rfl

/-! ### Acknowledgement (R58) -/

@[simp] theorem State.acknowledge_ctxS (v : Word) (s : State) : (s.acknowledge v).ctxS = s.ctxS := rfl
@[simp] theorem State.acknowledge_ctxX (v : Word) (s : State) : (s.acknowledge v).ctxX = s.ctxX := rfl
@[simp] theorem State.acknowledge_keyin (v : Word) (s : State) : (s.acknowledge v).keyin = s.keyin := rfl
@[simp] theorem State.acknowledge_k1 (v : Word) (s : State) : (s.acknowledge v).k1 = s.k1 := rfl
@[simp] theorem State.acknowledge_k2 (v : Word) (s : State) : (s.acknowledge v).k2 = s.k2 := rfl
@[simp] theorem State.acknowledge_mac (v : Word) (s : State) : (s.acknowledge v).mac = s.mac := rfl
@[simp] theorem State.acknowledge_maclen (v : Word) (s : State) : (s.acknowledge v).maclen = s.maclen := rfl
@[simp] theorem State.acknowledge_expect (v : Word) (s : State) : (s.acknowledge v).expect = s.expect := rfl
@[simp] theorem State.acknowledge_crc16Acc (v : Word) (s : State) : (s.acknowledge v).crc16Acc = s.crc16Acc := rfl
@[simp] theorem State.acknowledge_crc32Acc (v : Word) (s : State) : (s.acknowledge v).crc32Acc = s.crc32Acc := rfl
@[simp] theorem State.acknowledge_din (v : Word) (s : State) : (s.acknowledge v).din = s.din := rfl
@[simp] theorem State.acknowledge_dout (v : Word) (s : State) : (s.acknowledge v).dout = s.dout := rfl
@[simp] theorem State.acknowledge_outlen (v : Word) (s : State) : (s.acknowledge v).outlen = s.outlen := rfl
@[simp] theorem State.acknowledge_busy (v : Word) (s : State) : (s.acknowledge v).busy = s.busy := rfl
@[simp] theorem State.acknowledge_done (v : Word) (s : State) : (s.acknowledge v).done = (s.done && !v.getLsbD 1) := rfl
@[simp] theorem State.acknowledge_err (v : Word) (s : State) : (s.acknowledge v).err = (s.err && !v.getLsbD 2) := rfl
@[simp] theorem State.acknowledge_wib (v : Word) (s : State) : (s.acknowledge v).wib = (s.wib && !v.getLsbD 3) := rfl
@[simp] theorem State.acknowledge_errcode (v : Word) (s : State) : (s.acknowledge v).errcode = (if v.getLsbD 2 then 0 else s.errcode) := rfl
@[simp] theorem State.acknowledge_cmdCur (v : Word) (s : State) : (s.acknowledge v).cmdCur = s.cmdCur := rfl
@[simp] theorem State.acknowledge_ieDone (v : Word) (s : State) : (s.acknowledge v).ieDone = s.ieDone := rfl
@[simp] theorem State.acknowledge_ieErr (v : Word) (s : State) : (s.acknowledge v).ieErr = s.ieErr := rfl
@[simp] theorem State.acknowledge_cfg (v : Word) (s : State) : (s.acknowledge v).cfg = s.cfg := rfl
@[simp] theorem State.acknowledge_agenda (v : Word) (s : State) : (s.acknowledge v).agenda = s.agenda := rfl
@[simp] theorem State.acknowledge_replies (v : Word) (s : State) : (s.acknowledge v).replies = s.replies := rfl

/-! ### The answer to the host (R52, R55) -/

@[simp] theorem State.reply_ctxS (r : Reply) (s : State) : (s.reply r).ctxS = s.ctxS := rfl
@[simp] theorem State.reply_ctxX (r : Reply) (s : State) : (s.reply r).ctxX = s.ctxX := rfl
@[simp] theorem State.reply_keyin (r : Reply) (s : State) : (s.reply r).keyin = s.keyin := rfl
@[simp] theorem State.reply_k1 (r : Reply) (s : State) : (s.reply r).k1 = s.k1 := rfl
@[simp] theorem State.reply_k2 (r : Reply) (s : State) : (s.reply r).k2 = s.k2 := rfl
@[simp] theorem State.reply_mac (r : Reply) (s : State) : (s.reply r).mac = s.mac := rfl
@[simp] theorem State.reply_maclen (r : Reply) (s : State) : (s.reply r).maclen = s.maclen := rfl
@[simp] theorem State.reply_expect (r : Reply) (s : State) : (s.reply r).expect = s.expect := rfl
@[simp] theorem State.reply_crc16Acc (r : Reply) (s : State) : (s.reply r).crc16Acc = s.crc16Acc := rfl
@[simp] theorem State.reply_crc32Acc (r : Reply) (s : State) : (s.reply r).crc32Acc = s.crc32Acc := rfl
@[simp] theorem State.reply_din (r : Reply) (s : State) : (s.reply r).din = s.din := rfl
@[simp] theorem State.reply_dout (r : Reply) (s : State) : (s.reply r).dout = s.dout := rfl
@[simp] theorem State.reply_outlen (r : Reply) (s : State) : (s.reply r).outlen = s.outlen := rfl
@[simp] theorem State.reply_busy (r : Reply) (s : State) : (s.reply r).busy = s.busy := rfl
@[simp] theorem State.reply_done (r : Reply) (s : State) : (s.reply r).done = s.done := rfl
@[simp] theorem State.reply_err (r : Reply) (s : State) : (s.reply r).err = s.err := rfl
@[simp] theorem State.reply_wib (r : Reply) (s : State) : (s.reply r).wib = s.wib := rfl
@[simp] theorem State.reply_errcode (r : Reply) (s : State) : (s.reply r).errcode = s.errcode := rfl
@[simp] theorem State.reply_cmdCur (r : Reply) (s : State) : (s.reply r).cmdCur = s.cmdCur := rfl
@[simp] theorem State.reply_ieDone (r : Reply) (s : State) : (s.reply r).ieDone = s.ieDone := rfl
@[simp] theorem State.reply_ieErr (r : Reply) (s : State) : (s.reply r).ieErr = s.ieErr := rfl
@[simp] theorem State.reply_cfg (r : Reply) (s : State) : (s.reply r).cfg = s.cfg := rfl
@[simp] theorem State.reply_agenda (r : Reply) (s : State) : (s.reply r).agenda = s.agenda := rfl
@[simp] theorem State.reply_replies (r : Reply) (s : State) : (s.reply r).replies = (r :: s.replies) := rfl

/-! ### The output of a command (R34) -/

@[simp] theorem State.output_ctxS (b : Bytes) (s : State) : (s.output b).ctxS = s.ctxS := rfl
@[simp] theorem State.output_ctxX (b : Bytes) (s : State) : (s.output b).ctxX = s.ctxX := rfl
@[simp] theorem State.output_keyin (b : Bytes) (s : State) : (s.output b).keyin = s.keyin := rfl
@[simp] theorem State.output_k1 (b : Bytes) (s : State) : (s.output b).k1 = s.k1 := rfl
@[simp] theorem State.output_k2 (b : Bytes) (s : State) : (s.output b).k2 = s.k2 := rfl
@[simp] theorem State.output_mac (b : Bytes) (s : State) : (s.output b).mac = s.mac := rfl
@[simp] theorem State.output_maclen (b : Bytes) (s : State) : (s.output b).maclen = s.maclen := rfl
@[simp] theorem State.output_expect (b : Bytes) (s : State) : (s.output b).expect = s.expect := rfl
@[simp] theorem State.output_crc16Acc (b : Bytes) (s : State) : (s.output b).crc16Acc = s.crc16Acc := rfl
@[simp] theorem State.output_crc32Acc (b : Bytes) (s : State) : (s.output b).crc32Acc = s.crc32Acc := rfl
@[simp] theorem State.output_din (b : Bytes) (s : State) : (s.output b).din = s.din := rfl
@[simp] theorem State.output_dout (b : Bytes) (s : State) : (s.output b).dout = Memory.writeBytes s.dout 0 b := rfl
@[simp] theorem State.output_outlen (b : Bytes) (s : State) : (s.output b).outlen = BitVec.ofNat 16 b.length := rfl
@[simp] theorem State.output_busy (b : Bytes) (s : State) : (s.output b).busy = s.busy := rfl
@[simp] theorem State.output_done (b : Bytes) (s : State) : (s.output b).done = s.done := rfl
@[simp] theorem State.output_err (b : Bytes) (s : State) : (s.output b).err = s.err := rfl
@[simp] theorem State.output_wib (b : Bytes) (s : State) : (s.output b).wib = s.wib := rfl
@[simp] theorem State.output_errcode (b : Bytes) (s : State) : (s.output b).errcode = s.errcode := rfl
@[simp] theorem State.output_cmdCur (b : Bytes) (s : State) : (s.output b).cmdCur = s.cmdCur := rfl
@[simp] theorem State.output_ieDone (b : Bytes) (s : State) : (s.output b).ieDone = s.ieDone := rfl
@[simp] theorem State.output_ieErr (b : Bytes) (s : State) : (s.output b).ieErr = s.ieErr := rfl
@[simp] theorem State.output_cfg (b : Bytes) (s : State) : (s.output b).cfg = s.cfg := rfl
@[simp] theorem State.output_agenda (b : Bytes) (s : State) : (s.output b).agenda = s.agenda := rfl
@[simp] theorem State.output_replies (b : Bytes) (s : State) : (s.output b).replies = s.replies := rfl

/-! ### The subkeys (R187) -/

@[simp] theorem State.setSubkeys_ctxS (ks : Bytes × Bytes) (s : State) : (s.setSubkeys ks).ctxS = s.ctxS := by simp only [State.setSubkeys]
@[simp] theorem State.setSubkeys_ctxX (ks : Bytes × Bytes) (s : State) : (s.setSubkeys ks).ctxX = s.ctxX := by simp only [State.setSubkeys]
@[simp] theorem State.setSubkeys_keyin (ks : Bytes × Bytes) (s : State) : (s.setSubkeys ks).keyin = s.keyin := by simp only [State.setSubkeys]
@[simp] theorem State.setSubkeys_k1 (ks : Bytes × Bytes) (s : State) : (s.setSubkeys ks).k1 = fixBytes 16 ks.1 := by simp only [State.setSubkeys]
@[simp] theorem State.setSubkeys_k2 (ks : Bytes × Bytes) (s : State) : (s.setSubkeys ks).k2 = fixBytes 16 ks.2 := by simp only [State.setSubkeys]
@[simp] theorem State.setSubkeys_mac (ks : Bytes × Bytes) (s : State) : (s.setSubkeys ks).mac = s.mac := by simp only [State.setSubkeys]
@[simp] theorem State.setSubkeys_maclen (ks : Bytes × Bytes) (s : State) : (s.setSubkeys ks).maclen = s.maclen := by simp only [State.setSubkeys]
@[simp] theorem State.setSubkeys_expect (ks : Bytes × Bytes) (s : State) : (s.setSubkeys ks).expect = s.expect := by simp only [State.setSubkeys]
@[simp] theorem State.setSubkeys_crc16Acc (ks : Bytes × Bytes) (s : State) : (s.setSubkeys ks).crc16Acc = s.crc16Acc := by simp only [State.setSubkeys]
@[simp] theorem State.setSubkeys_crc32Acc (ks : Bytes × Bytes) (s : State) : (s.setSubkeys ks).crc32Acc = s.crc32Acc := by simp only [State.setSubkeys]
@[simp] theorem State.setSubkeys_din (ks : Bytes × Bytes) (s : State) : (s.setSubkeys ks).din = s.din := by simp only [State.setSubkeys]
@[simp] theorem State.setSubkeys_dout (ks : Bytes × Bytes) (s : State) : (s.setSubkeys ks).dout = s.dout := by simp only [State.setSubkeys]
@[simp] theorem State.setSubkeys_outlen (ks : Bytes × Bytes) (s : State) : (s.setSubkeys ks).outlen = s.outlen := by simp only [State.setSubkeys]
@[simp] theorem State.setSubkeys_busy (ks : Bytes × Bytes) (s : State) : (s.setSubkeys ks).busy = s.busy := by simp only [State.setSubkeys]
@[simp] theorem State.setSubkeys_done (ks : Bytes × Bytes) (s : State) : (s.setSubkeys ks).done = s.done := by simp only [State.setSubkeys]
@[simp] theorem State.setSubkeys_err (ks : Bytes × Bytes) (s : State) : (s.setSubkeys ks).err = s.err := by simp only [State.setSubkeys]
@[simp] theorem State.setSubkeys_wib (ks : Bytes × Bytes) (s : State) : (s.setSubkeys ks).wib = s.wib := by simp only [State.setSubkeys]
@[simp] theorem State.setSubkeys_errcode (ks : Bytes × Bytes) (s : State) : (s.setSubkeys ks).errcode = s.errcode := by simp only [State.setSubkeys]
@[simp] theorem State.setSubkeys_cmdCur (ks : Bytes × Bytes) (s : State) : (s.setSubkeys ks).cmdCur = s.cmdCur := by simp only [State.setSubkeys]
@[simp] theorem State.setSubkeys_ieDone (ks : Bytes × Bytes) (s : State) : (s.setSubkeys ks).ieDone = s.ieDone := by simp only [State.setSubkeys]
@[simp] theorem State.setSubkeys_ieErr (ks : Bytes × Bytes) (s : State) : (s.setSubkeys ks).ieErr = s.ieErr := by simp only [State.setSubkeys]
@[simp] theorem State.setSubkeys_cfg (ks : Bytes × Bytes) (s : State) : (s.setSubkeys ks).cfg = s.cfg := by simp only [State.setSubkeys]
@[simp] theorem State.setSubkeys_agenda (ks : Bytes × Bytes) (s : State) : (s.setSubkeys ks).agenda = s.agenda := by simp only [State.setSubkeys]
@[simp] theorem State.setSubkeys_replies (ks : Bytes × Bytes) (s : State) : (s.setSubkeys ks).replies = s.replies := by simp only [State.setSubkeys]

/-! ### The session data (R113) -/

@[simp] theorem State.clearSession_ctxS (s : State) : (s.clearSession).ctxS = s.ctxS := rfl
@[simp] theorem State.clearSession_ctxX (s : State) : (s.clearSession).ctxX = s.ctxX := rfl
@[simp] theorem State.clearSession_keyin (s : State) : (s.clearSession).keyin = Vector.replicate 24 0 := rfl
@[simp] theorem State.clearSession_k1 (s : State) : (s.clearSession).k1 = Vector.replicate 16 0 := rfl
@[simp] theorem State.clearSession_k2 (s : State) : (s.clearSession).k2 = Vector.replicate 16 0 := rfl
@[simp] theorem State.clearSession_mac (s : State) : (s.clearSession).mac = Vector.replicate 16 0 := rfl
@[simp] theorem State.clearSession_maclen (s : State) : (s.clearSession).maclen = 0 := rfl
@[simp] theorem State.clearSession_expect (s : State) : (s.clearSession).expect = Vector.replicate 16 0 := rfl
@[simp] theorem State.clearSession_crc16Acc (s : State) : (s.clearSession).crc16Acc = 0x6363 := rfl
@[simp] theorem State.clearSession_crc32Acc (s : State) : (s.clearSession).crc32Acc = 0xFFFFFFFF := rfl
@[simp] theorem State.clearSession_din (s : State) : (s.clearSession).din = [] := rfl
@[simp] theorem State.clearSession_dout (s : State) : (s.clearSession).dout = [] := rfl
@[simp] theorem State.clearSession_outlen (s : State) : (s.clearSession).outlen = 0 := rfl
@[simp] theorem State.clearSession_busy (s : State) : (s.clearSession).busy = s.busy := rfl
@[simp] theorem State.clearSession_done (s : State) : (s.clearSession).done = s.done := rfl
@[simp] theorem State.clearSession_err (s : State) : (s.clearSession).err = s.err := rfl
@[simp] theorem State.clearSession_wib (s : State) : (s.clearSession).wib = s.wib := rfl
@[simp] theorem State.clearSession_errcode (s : State) : (s.clearSession).errcode = s.errcode := rfl
@[simp] theorem State.clearSession_cmdCur (s : State) : (s.clearSession).cmdCur = s.cmdCur := rfl
@[simp] theorem State.clearSession_ieDone (s : State) : (s.clearSession).ieDone = s.ieDone := rfl
@[simp] theorem State.clearSession_ieErr (s : State) : (s.clearSession).ieErr = s.ieErr := rfl
@[simp] theorem State.clearSession_cfg (s : State) : (s.clearSession).cfg = s.cfg := rfl
@[simp] theorem State.clearSession_agenda (s : State) : (s.clearSession).agenda = s.agenda := rfl
@[simp] theorem State.clearSession_replies (s : State) : (s.clearSession).replies = s.replies := rfl

/-! ### Reset (R41): a field of the CEB is a field of toCeb, so one lemma gives all of them -/

@[simp] theorem State.resetCeb_toCeb (s : State) : s.resetCeb.toCeb = Ceb.reset := rfl
@[simp] theorem State.resetCeb_cfg (s : State) : s.resetCeb.cfg = s.cfg := rfl
@[simp] theorem State.resetCeb_agenda (s : State) : s.resetCeb.agenda = s.agenda := rfl
@[simp] theorem State.resetCeb_replies (s : State) : s.resetCeb.replies = s.replies := rfl

/-! ### A context (R21) -/

@[simp] theorem State.setCtx_keyin (s : State) (c : CtxSel) (x : Ctx) : (s.setCtx c x).keyin = s.keyin := by cases c <;> rfl
@[simp] theorem State.setCtx_k1 (s : State) (c : CtxSel) (x : Ctx) : (s.setCtx c x).k1 = s.k1 := by cases c <;> rfl
@[simp] theorem State.setCtx_k2 (s : State) (c : CtxSel) (x : Ctx) : (s.setCtx c x).k2 = s.k2 := by cases c <;> rfl
@[simp] theorem State.setCtx_mac (s : State) (c : CtxSel) (x : Ctx) : (s.setCtx c x).mac = s.mac := by cases c <;> rfl
@[simp] theorem State.setCtx_maclen (s : State) (c : CtxSel) (x : Ctx) : (s.setCtx c x).maclen = s.maclen := by cases c <;> rfl
@[simp] theorem State.setCtx_expect (s : State) (c : CtxSel) (x : Ctx) : (s.setCtx c x).expect = s.expect := by cases c <;> rfl
@[simp] theorem State.setCtx_crc16Acc (s : State) (c : CtxSel) (x : Ctx) : (s.setCtx c x).crc16Acc = s.crc16Acc := by cases c <;> rfl
@[simp] theorem State.setCtx_crc32Acc (s : State) (c : CtxSel) (x : Ctx) : (s.setCtx c x).crc32Acc = s.crc32Acc := by cases c <;> rfl
@[simp] theorem State.setCtx_din (s : State) (c : CtxSel) (x : Ctx) : (s.setCtx c x).din = s.din := by cases c <;> rfl
@[simp] theorem State.setCtx_dout (s : State) (c : CtxSel) (x : Ctx) : (s.setCtx c x).dout = s.dout := by cases c <;> rfl
@[simp] theorem State.setCtx_outlen (s : State) (c : CtxSel) (x : Ctx) : (s.setCtx c x).outlen = s.outlen := by cases c <;> rfl
@[simp] theorem State.setCtx_busy (s : State) (c : CtxSel) (x : Ctx) : (s.setCtx c x).busy = s.busy := by cases c <;> rfl
@[simp] theorem State.setCtx_done (s : State) (c : CtxSel) (x : Ctx) : (s.setCtx c x).done = s.done := by cases c <;> rfl
@[simp] theorem State.setCtx_err (s : State) (c : CtxSel) (x : Ctx) : (s.setCtx c x).err = s.err := by cases c <;> rfl
@[simp] theorem State.setCtx_wib (s : State) (c : CtxSel) (x : Ctx) : (s.setCtx c x).wib = s.wib := by cases c <;> rfl
@[simp] theorem State.setCtx_errcode (s : State) (c : CtxSel) (x : Ctx) : (s.setCtx c x).errcode = s.errcode := by cases c <;> rfl
@[simp] theorem State.setCtx_cmdCur (s : State) (c : CtxSel) (x : Ctx) : (s.setCtx c x).cmdCur = s.cmdCur := by cases c <;> rfl
@[simp] theorem State.setCtx_ieDone (s : State) (c : CtxSel) (x : Ctx) : (s.setCtx c x).ieDone = s.ieDone := by cases c <;> rfl
@[simp] theorem State.setCtx_ieErr (s : State) (c : CtxSel) (x : Ctx) : (s.setCtx c x).ieErr = s.ieErr := by cases c <;> rfl
@[simp] theorem State.setCtx_cfg (s : State) (c : CtxSel) (x : Ctx) : (s.setCtx c x).cfg = s.cfg := by cases c <;> rfl
@[simp] theorem State.setCtx_agenda (s : State) (c : CtxSel) (x : Ctx) : (s.setCtx c x).agenda = s.agenda := by cases c <;> rfl
@[simp] theorem State.setCtx_replies (s : State) (c : CtxSel) (x : Ctx) : (s.setCtx c x).replies = s.replies := by cases c <;> rfl

@[simp] theorem State.setCtx_ctx (s : State) (c d : CtxSel) (x : Ctx) :
    (s.setCtx c x).ctx d = if d = c then x else s.ctx d := by cases c <;> cases d <;> rfl

@[simp] theorem State.setCtx_s_ctxS (s : State) (x : Ctx) : (s.setCtx .s x).ctxS = x := rfl
@[simp] theorem State.setCtx_s_ctxX (s : State) (x : Ctx) : (s.setCtx .s x).ctxX = s.ctxX := rfl
@[simp] theorem State.setCtx_x_ctxS (s : State) (x : Ctx) : (s.setCtx .x x).ctxS = s.ctxS := rfl
@[simp] theorem State.setCtx_x_ctxX (s : State) (x : Ctx) : (s.setCtx .x x).ctxX = x := rfl

@[simp] theorem State.finish_ctx (s : State) (c : CtxSel) : (s.finish).ctx c = s.ctx c := by cases c <;> simp [State.ctx]
@[simp] theorem State.raise_ctx (e : ErrKind) (s : State) (c : CtxSel) : (s.raise e).ctx c = s.ctx c := by cases c <;> simp [State.ctx]
@[simp] theorem State.accept_ctx (cw : Word) (s : State) (c : CtxSel) : (s.accept cw).ctx c = s.ctx c := by cases c <;> simp [State.ctx]
@[simp] theorem State.acknowledge_ctx (v : Word) (s : State) (c : CtxSel) : (s.acknowledge v).ctx c = s.ctx c := by cases c <;> simp [State.ctx]
@[simp] theorem State.reply_ctx (r : Reply) (s : State) (c : CtxSel) : (s.reply r).ctx c = s.ctx c := by cases c <;> simp [State.ctx]
@[simp] theorem State.output_ctx (b : Bytes) (s : State) (c : CtxSel) : (s.output b).ctx c = s.ctx c := by cases c <;> simp [State.ctx]
@[simp] theorem State.setSubkeys_ctx (ks : Bytes × Bytes) (s : State) (c : CtxSel) : (s.setSubkeys ks).ctx c = s.ctx c := by cases c <;> simp [State.ctx]
@[simp] theorem State.clearSession_ctx (s : State) (c : CtxSel) : (s.clearSession).ctx c = s.ctx c := by cases c <;> simp [State.ctx]

/-! ### The IV write-back (R164) -/

@[simp] theorem State.writeBackIv_keyin (s : State) (c : CtxSel) (u : Bool) (n : Nat) (l : Bytes) :
    (s.writeBackIv c u n l).keyin = s.keyin := by unfold State.writeBackIv; split <;> simp
@[simp] theorem State.writeBackIv_k1 (s : State) (c : CtxSel) (u : Bool) (n : Nat) (l : Bytes) :
    (s.writeBackIv c u n l).k1 = s.k1 := by unfold State.writeBackIv; split <;> simp
@[simp] theorem State.writeBackIv_k2 (s : State) (c : CtxSel) (u : Bool) (n : Nat) (l : Bytes) :
    (s.writeBackIv c u n l).k2 = s.k2 := by unfold State.writeBackIv; split <;> simp
@[simp] theorem State.writeBackIv_mac (s : State) (c : CtxSel) (u : Bool) (n : Nat) (l : Bytes) :
    (s.writeBackIv c u n l).mac = s.mac := by unfold State.writeBackIv; split <;> simp
@[simp] theorem State.writeBackIv_maclen (s : State) (c : CtxSel) (u : Bool) (n : Nat) (l : Bytes) :
    (s.writeBackIv c u n l).maclen = s.maclen := by unfold State.writeBackIv; split <;> simp
@[simp] theorem State.writeBackIv_expect (s : State) (c : CtxSel) (u : Bool) (n : Nat) (l : Bytes) :
    (s.writeBackIv c u n l).expect = s.expect := by unfold State.writeBackIv; split <;> simp
@[simp] theorem State.writeBackIv_crc16Acc (s : State) (c : CtxSel) (u : Bool) (n : Nat) (l : Bytes) :
    (s.writeBackIv c u n l).crc16Acc = s.crc16Acc := by unfold State.writeBackIv; split <;> simp
@[simp] theorem State.writeBackIv_crc32Acc (s : State) (c : CtxSel) (u : Bool) (n : Nat) (l : Bytes) :
    (s.writeBackIv c u n l).crc32Acc = s.crc32Acc := by unfold State.writeBackIv; split <;> simp
@[simp] theorem State.writeBackIv_din (s : State) (c : CtxSel) (u : Bool) (n : Nat) (l : Bytes) :
    (s.writeBackIv c u n l).din = s.din := by unfold State.writeBackIv; split <;> simp
@[simp] theorem State.writeBackIv_dout (s : State) (c : CtxSel) (u : Bool) (n : Nat) (l : Bytes) :
    (s.writeBackIv c u n l).dout = s.dout := by unfold State.writeBackIv; split <;> simp
@[simp] theorem State.writeBackIv_outlen (s : State) (c : CtxSel) (u : Bool) (n : Nat) (l : Bytes) :
    (s.writeBackIv c u n l).outlen = s.outlen := by unfold State.writeBackIv; split <;> simp
@[simp] theorem State.writeBackIv_busy (s : State) (c : CtxSel) (u : Bool) (n : Nat) (l : Bytes) :
    (s.writeBackIv c u n l).busy = s.busy := by unfold State.writeBackIv; split <;> simp
@[simp] theorem State.writeBackIv_done (s : State) (c : CtxSel) (u : Bool) (n : Nat) (l : Bytes) :
    (s.writeBackIv c u n l).done = s.done := by unfold State.writeBackIv; split <;> simp
@[simp] theorem State.writeBackIv_err (s : State) (c : CtxSel) (u : Bool) (n : Nat) (l : Bytes) :
    (s.writeBackIv c u n l).err = s.err := by unfold State.writeBackIv; split <;> simp
@[simp] theorem State.writeBackIv_wib (s : State) (c : CtxSel) (u : Bool) (n : Nat) (l : Bytes) :
    (s.writeBackIv c u n l).wib = s.wib := by unfold State.writeBackIv; split <;> simp
@[simp] theorem State.writeBackIv_errcode (s : State) (c : CtxSel) (u : Bool) (n : Nat) (l : Bytes) :
    (s.writeBackIv c u n l).errcode = s.errcode := by unfold State.writeBackIv; split <;> simp
@[simp] theorem State.writeBackIv_cmdCur (s : State) (c : CtxSel) (u : Bool) (n : Nat) (l : Bytes) :
    (s.writeBackIv c u n l).cmdCur = s.cmdCur := by unfold State.writeBackIv; split <;> simp
@[simp] theorem State.writeBackIv_ieDone (s : State) (c : CtxSel) (u : Bool) (n : Nat) (l : Bytes) :
    (s.writeBackIv c u n l).ieDone = s.ieDone := by unfold State.writeBackIv; split <;> simp
@[simp] theorem State.writeBackIv_ieErr (s : State) (c : CtxSel) (u : Bool) (n : Nat) (l : Bytes) :
    (s.writeBackIv c u n l).ieErr = s.ieErr := by unfold State.writeBackIv; split <;> simp
@[simp] theorem State.writeBackIv_cfg (s : State) (c : CtxSel) (u : Bool) (n : Nat) (l : Bytes) :
    (s.writeBackIv c u n l).cfg = s.cfg := by unfold State.writeBackIv; split <;> simp
@[simp] theorem State.writeBackIv_agenda (s : State) (c : CtxSel) (u : Bool) (n : Nat) (l : Bytes) :
    (s.writeBackIv c u n l).agenda = s.agenda := by unfold State.writeBackIv; split <;> simp
@[simp] theorem State.writeBackIv_replies (s : State) (c : CtxSel) (u : Bool) (n : Nat) (l : Bytes) :
    (s.writeBackIv c u n l).replies = s.replies := by unfold State.writeBackIv; split <;> simp

/-- R164: what the write-back does to a context: with `UIV` and at least one block the selected context's IV becomes the
final block, everything else of both contexts stays. -/
theorem State.writeBackIv_ctx (s : State) (c d : CtxSel) (u : Bool) (n : Nat) (l : Bytes) :
    (s.writeBackIv c u n l).ctx d =
      if d = c ∧ u = true ∧ 0 < n then { s.ctx d with iv := fixBytes 16 l } else s.ctx d := by
  unfold State.writeBackIv
  by_cases hd : d = c <;> cases u <;> by_cases hn : 0 < n <;> simp_all

end Sys2Proof.Machine
end

