-- ==== Sys2Proof/Laws/Bus.lean ====
section
/-! SUPPORT. Where a host access goes (R51, R52), what a write can do (R56, R69), and what a step is for each event. -/

namespace Sys2Proof.Machine

theorem locate_misaligned {cfg : Config} {a : Addr} (h : a.toNat % 4 ≠ 0) : locate cfg a = .error .misaligned := by
  simp [locate, h]

theorem locate_ctrl (cfg : Config) : locate cfg 0x00004 = .ok (.ctrl, 0) := rfl
theorem locate_status (cfg : Config) : locate cfg 0x00008 = .ok (.status, 0) := rfl
theorem locate_cmd (cfg : Config) : locate cfg 0x0000C = .ok (.cmd, 0) := rfl

/-- R51: an address in a region that no earlier region holds is located in it. -/
theorem locate_of_find {cfg : Config} {a : Addr} {r : Region} (h : a.toNat % 4 = 0)
    (hf : (regions cfg).find? (fun r => r.holds a.toNat) = some r) : locate cfg a = .ok (r.el, a.toNat - r.base) := by
  simp [locate, h, hf]

/-- R51: the base of the region a located access falls in, its size, and that it is a row of the map. -/
theorem locate_ok {cfg : Config} {a : Addr} {el : Element} {k : Nat} (h : locate cfg a = .ok (el, k)) :
    a.toNat % 4 = 0 ∧ ∃ r ∈ regions cfg, r.el = el ∧ a.toNat = r.base + k ∧ k < r.bytes := by
  unfold locate at h
  split at h
  · next ha =>
    refine ⟨ha, ?_⟩
    split at h
    · next r hr =>
      have hm := List.mem_of_find?_eq_some hr
      have hh := List.find?_some hr
      simp only [Region.holds, Bool.and_eq_true, decide_eq_true_eq] at hh
      cases h
      exact ⟨r, hm, rfl, by omega, by omega⟩
    · cases h
  · cases h

/-- R51: the byte offset of a located access is a multiple of 4. -/
theorem locate_aligned {cfg : Config} {a : Addr} {el : Element} {k : Nat} (h : locate cfg a = .ok (el, k)) :
    k % 4 = 0 := by
  obtain ⟨ha, r, hm, -, hb, -⟩ := locate_ok h
  have hr : ∀ r ∈ regions cfg, r.base % 4 = 0 := by simp [regions]
  have := hr r hm
  omega

theorem State.hostRead_of_ok {s : State} {a : Addr} {el : Element} {k : Nat} (h : locate s.cfg a = .ok (el, k)) :
    s.hostRead a = s.reply (.data (s.readElement el k)) := by simp [State.hostRead, h]

theorem State.hostRead_of_error {s : State} {a : Addr} {e : BusError} (h : locate s.cfg a = .error e) :
    s.hostRead a = s.reply (.error e) := by simp [State.hostRead, h]

theorem State.hostWrite_of_ok {s : State} {a : Addr} {v : Word} {el : Element} {k : Nat}
    (h : locate s.cfg a = .ok (el, k)) : s.hostWrite a v = (s.writeMapped el k v).reply .ack := by
  simp [State.hostWrite, h]

theorem State.hostWrite_of_error {s : State} {a : Addr} {v : Word} {e : BusError} (h : locate s.cfg a = .error e) :
    s.hostWrite a v = s.reply (.error e) := by simp [State.hostWrite, h]

/-- R69: while busy a write to anything but CTRL sets `wib` and does nothing else. -/
theorem State.writeMapped_busy {s : State} {el : Element} (hb : s.busy = true) (hel : el ≠ .ctrl) (k : Nat) (v : Word) :
    s.writeMapped el k v = { s with wib := true } := by simp [State.writeMapped, hb, hel]

theorem State.writeMapped_idle {s : State} {el : Element} (hb : s.busy = false) (k : Nat) (v : Word) :
    s.writeMapped el k v = s.writeElement el k v := by simp [State.writeMapped, hb]

theorem State.writeMapped_ctrl (s : State) (k : Nat) (v : Word) : s.writeMapped .ctrl k v = s.writeCtrl v := by
  simp [State.writeMapped, State.writeElement]

theorem State.writeCtrl_reset {s : State} {v : Word} (h : v.getLsbD 0 = true) : s.writeCtrl v = s.resetCeb := by
  simp [State.writeCtrl, h]

theorem State.writeCtrl_enables {s : State} {v : Word} (h : v.getLsbD 0 = false) :
    s.writeCtrl v = { s with ieDone := v.getLsbD 1, ieErr := v.getLsbD 2 } := by
  unfold State.writeCtrl
  rw [h, if_neg Bool.false_ne_true]

/-! ### Steps -/

theorem State.engineTurn_idle {s : State} (h : s.busy = false) : s.engineTurn = .next s := by
  simp [State.engineTurn, h]

theorem State.engineTurn_legal {s : State} {i : Instr} (h : s.busy = true) (hd : decode s.cmdCur = .ok i) :
    s.engineTurn = exec i s := by simp [State.engineTurn, h, hd]

theorem State.engineTurn_illegal {s : State} {e : Illegal} (h : s.busy = true) (hd : decode s.cmdCur = .error e) :
    s.engineTurn = .next (s.raise .illcmd) := by simp [State.engineTurn, h, hd]

theorem step_empty {s : State} (h : s.agenda = []) : step s = s.engineTurn := by simp [step, State.nextTurn, h]

theorem step_cons {s : State} {e : Event} {rest : List Event} (h : s.agenda = e :: rest) :
    step s = State.takeEvent e { s with agenda := rest } := by simp [step, State.nextTurn, h]

theorem step_hostRead {s : State} {a : Addr} {rest : List Event} (h : s.agenda = .hostRead a :: rest) :
    step s = .next ({ s with agenda := rest }.hostRead a) := step_cons h

theorem step_hostWrite {s : State} {a : Addr} {v : Word} {rest : List Event} (h : s.agenda = .hostWrite a v :: rest) :
    step s = .next ({ s with agenda := rest }.hostWrite a v) := step_cons h

theorem step_engine {s : State} {rest : List Event} (h : s.agenda = .engine :: rest) :
    step s = { s with agenda := rest }.engineTurn := step_cons h

theorem step_rst {s : State} {rest : List Event} (h : s.agenda = .rst :: rest) :
    step s = .next { s with agenda := rest }.resetCeb := step_cons h

end Sys2Proof.Machine
end

