-- ==== Sys2Proof/Laws/Memory.lean ====
section
/-! SUPPORT. Byte strings and buffers: what each operation gives, byte by byte, and that every buffer operation keeps the
canonical form. -/

namespace Sys2Proof.Machine

/-! ### Byte strings -/

@[simp] theorem byteTable_length (n : Nat) (f : Nat → Byte) : (byteTable n f).length = n := by
  simp [byteTable]

theorem byteTable_getElem? (n : Nat) (f : Nat → Byte) (i : Nat) :
    (byteTable n f)[i]? = if i < n then some (f i) else none := by
  by_cases h : i < n <;> simp [byteTable, h]

@[simp] theorem byteTable_getD (n : Nat) (f : Nat → Byte) (i : Nat) :
    (byteTable n f).getD i 0 = if i < n then f i else 0 := by
  rw [List.getD_eq_getElem?_getD, byteTable_getElem?]
  split <;> rfl

@[simp] theorem zeros_length (n : Nat) : (zeros n).length = n := by simp [zeros]

@[simp] theorem zeros_getD (n i : Nat) : (zeros n).getD i 0 = 0 := by
  by_cases h : i < n <;> simp [zeros, List.getD, h]

@[simp] theorem xorBytes_length (a b : Bytes) : (xorBytes a b).length = min a.length b.length := by
  simp [xorBytes]

@[simp] theorem beBytes_length (n v : Nat) : (beBytes n v).length = n := by simp [beBytes]

@[simp] theorem leBytes_length {w : Nat} (n : Nat) (v : BitVec w) : (leBytes n v).length = n := by simp [leBytes]

/-- A register made from a byte string holds its bytes and then zeros. -/
@[simp] theorem fixBytes_getD (n : Nat) (b : Bytes) (i : Nat) :
    (fixBytes n b).getD i 0 = if i < n then b.getD i 0 else 0 := by
  by_cases h : i < n <;> simp [fixBytes, Vector.getD, h]

theorem blocks_length (bs : Nat) (m : Bytes) : (blocks bs m).length = m.length / bs := by simp [blocks]

/-- Every block of a message has the block size. -/
theorem length_of_mem_blocks {bs : Nat} {m b : Bytes} (h : b ∈ blocks bs m) : b.length = bs := by
  simp only [blocks, List.mem_map, List.mem_range] at h
  obtain ⟨i, hi, rfl⟩ := h
  have h1 : (i + 1) * bs ≤ m.length := by
    calc (i + 1) * bs ≤ m.length / bs * bs := Nat.mul_le_mul_right bs hi
      _ ≤ m.length := Nat.div_mul_le_self _ _
  have h2 : (i + 1) * bs = i * bs + bs := by ring
  simp only [List.length_take, List.length_drop]
  omega

/-! ### Buffers: reading after writing -/

/-- A read after a write of one byte: the written byte at its index, what was there everywhere else. -/
theorem Memory.read_write (m : Memory) (h : Memory.wf m) (i j : Nat) (b : Byte) :
    Memory.read (Memory.write m i b) j = if j = i then b else Memory.read m j := by
  induction m with
  | nil =>
    rw [Memory.write]
    by_cases hb : b = 0
    · subst hb
      rw [if_pos rfl]
      split <;> rfl
    · rw [if_neg hb]
      rfl
  | cons p m ih =>
    obtain ⟨k, c⟩ := p
    obtain ⟨hs, hz⟩ := h
    have hm : Memory.wf m := ⟨(List.pairwise_cons.mp hs).2, fun q hq => hz q (List.mem_cons_of_mem _ hq)⟩
    have hk : ∀ q ∈ m, k < q.1 := fun q hq => (List.pairwise_cons.mp hs).1 q hq
    have miss : ∀ l : Memory, ∀ x, (∀ q ∈ l, x < q.1) → Memory.read l x = 0 := by
      intro l x hl
      induction l with
      | nil => rfl
      | cons q l ihl =>
        have hq := hl q (List.mem_cons_self ..)
        rw [Memory.read, if_neg (by omega)]
        exact ihl fun r hr => hl r (List.mem_cons_of_mem _ hr)
    simp only [Memory.write]
    by_cases h1 : i < k
    · rw [if_pos h1]
      by_cases hb : b = 0
      · rw [if_pos hb]
        by_cases hj : j = i
        · subst hj
          rw [if_pos rfl, hb, Memory.read, if_neg (by omega)]
          exact miss m j fun q hq => lt_trans h1 (hk q hq)
        · rw [if_neg hj]
      · rw [if_neg hb]
        rfl
    · rw [if_neg h1]
      by_cases h2 : i = k
      · subst h2
        rw [if_pos rfl]
        by_cases hb : b = 0
        · rw [if_pos hb]
          by_cases hj : j = i
          · subst hj
            rw [if_pos rfl, hb]
            exact miss m j hk
          · rw [if_neg hj]
            simp [Memory.read, hj]
        · rw [if_neg hb]
          by_cases hj : j = i <;> simp [Memory.read, hj]
      · rw [if_neg h2]
        by_cases hj : j = k
        · subst hj
          simp [Memory.read, Ne.symm h2]
        · simp [Memory.read, hj, ih hm]

/-- Every entry after a write is the written one or was there. -/
theorem Memory.mem_write {m : Memory} {i : Nat} {b : Byte} {p : Host.Cell} (h : p ∈ Memory.write m i b) :
    (p = (i, b) ∧ b ≠ 0) ∨ p ∈ m := by
  induction m with
  | nil => by_cases hb : b = 0 <;> simp_all [Memory.write]
  | cons q m ih =>
    obtain ⟨k, c⟩ := q
    simp only [Memory.write] at h
    split at h
    · split at h
      · exact .inr h
      · rcases List.mem_cons.mp h with h | h
        · exact .inl ⟨h, by assumption⟩
        · exact .inr h
    · split at h
      · split at h
        · exact .inr (List.mem_cons_of_mem _ h)
        · rcases List.mem_cons.mp h with h | h
          · exact .inl ⟨h, by assumption⟩
          · exact .inr (List.mem_cons_of_mem _ h)
      · rcases List.mem_cons.mp h with h | h
        · exact .inr (h ▸ List.mem_cons_self ..)
        · rcases ih h with h | h
          · exact .inl h
          · exact .inr (List.mem_cons_of_mem _ h)

/-- A write of one byte keeps the canonical form. -/
theorem Memory.write_wf {m : Memory} (h : Memory.wf m) (i : Nat) (b : Byte) : Memory.wf (Memory.write m i b) := by
  refine ⟨?_, ?_⟩
  · induction m with
    | nil =>
      rw [Memory.write]
      split <;> simp
    | cons q m ih =>
      obtain ⟨k, c⟩ := q
      obtain ⟨hs, hz⟩ := h
      have hm : Memory.wf m := ⟨(List.pairwise_cons.mp hs).2, fun q hq => hz q (List.mem_cons_of_mem _ hq)⟩
      have hk : ∀ q ∈ m, k < q.1 := (List.pairwise_cons.mp hs).1
      simp only [Memory.write]
      split
      · split
        · exact hs
        · refine List.pairwise_cons.mpr ⟨?_, hs⟩
          intro q hq
          rcases List.mem_cons.mp hq with hq | hq
          · subst hq; assumption
          · exact lt_trans (by assumption) (hk q hq)
      · split
        · subst_vars
          split
          · exact hm.1
          · exact List.pairwise_cons.mpr ⟨hk, hm.1⟩
        · refine List.pairwise_cons.mpr ⟨?_, ih hm⟩
          intro q hq
          rcases Memory.mem_write hq with ⟨rfl, _⟩ | hq
          · show k < i
            omega
          · exact hk q hq
  · intro p hp
    rcases Memory.mem_write hp with ⟨rfl, hb⟩ | hp
    · exact hb
    · exact h.2 p hp

/-- A write below the capacity keeps the contents below the capacity. -/
theorem Memory.write_within {n : Nat} {m : Memory} (h : Memory.within n m) {i : Nat} (hi : i < n) (b : Byte) :
    Memory.within n (Memory.write m i b) := by
  intro p hp
  rcases Memory.mem_write hp with ⟨rfl, _⟩ | hp
  · exact hi
  · exact h p hp

/-- A read after a write of a byte string: its bytes from the index up, what was there everywhere else. -/
theorem Memory.read_writeBytes (b : Bytes) (m : Memory) (h : Memory.wf m) (i j : Nat) :
    Memory.read (Memory.writeBytes m i b) j =
      if i ≤ j ∧ j < i + b.length then b.getD (j - i) 0 else Memory.read m j := by
  induction b generalizing m i with
  | nil =>
    have : ¬(i ≤ j ∧ j < i + ([] : Bytes).length) := by simp only [List.length_nil]; omega
    rw [if_neg this]
    rfl
  | cons x b ih =>
    rw [Memory.writeBytes, ih _ (Memory.write_wf h i x), Memory.read_write m h]
    simp only [List.length_cons]
    by_cases hj : j = i
    · subst hj
      rw [if_neg (by omega), if_pos rfl, if_pos (by omega)]
      simp
    · by_cases h1 : i + 1 ≤ j ∧ j < i + 1 + b.length
      · rw [if_pos h1, if_pos (by omega)]
        obtain ⟨k, rfl⟩ : ∃ k, j = i + 1 + k := ⟨j - (i + 1), by omega⟩
        rw [show i + 1 + k - (i + 1) = k by omega, show i + 1 + k - i = k + 1 by omega]
        simp
      · rw [if_neg h1, if_neg hj, if_neg (by omega)]

/-- A write of a byte string keeps the canonical form. -/
theorem Memory.writeBytes_wf (b : Bytes) {m : Memory} (h : Memory.wf m) (i : Nat) :
    Memory.wf (Memory.writeBytes m i b) := by
  induction b generalizing m i with
  | nil => exact h
  | cons x b ih => exact ih (Memory.write_wf h i x) (i + 1)

/-- A write of a byte string inside the capacity keeps the contents inside it. -/
theorem Memory.writeBytes_within {n : Nat} (b : Bytes) {m : Memory} (h : Memory.within n m) {i : Nat}
    (hi : i + b.length ≤ n) : Memory.within n (Memory.writeBytes m i b) := by
  induction b generalizing m i with
  | nil => exact h
  | cons x b ih =>
    simp only [List.length_cons] at hi
    exact ih (Memory.write_within h (by omega) x) (by omega)

/-- A word written to a buffer keeps the canonical form. -/
theorem Memory.storeWord_wf {m : Memory} (h : Memory.wf m) (k : Nat) (v : Word) : Memory.wf (Memory.storeWord m k v) :=
  Memory.writeBytes_wf _ h k

/-- A byte of a buffer with nothing listed at or above `n` is 0 from `n` on. -/
theorem Memory.read_eq_zero_of_within {n : Nat} {m : Memory} (h : Memory.within n m) {i : Nat} (hi : n ≤ i) :
    Memory.read m i = 0 := by
  induction m with
  | nil => rfl
  | cons p m ih =>
    have hp := h p (List.mem_cons_self ..)
    rw [Memory.read, if_neg (by omega)]
    exact ih fun q hq => h q (List.mem_cons_of_mem _ hq)

/-- Buffers in canonical form that read alike are the same data. -/
theorem Memory.ext_read {m n : Memory} (hm : Memory.wf m) (hn : Memory.wf n)
    (h : ∀ i, Memory.read m i = Memory.read n i) : m = n := by
  have low : ∀ (l : Memory) (x : Nat), (∀ q ∈ l, x < q.1) → Memory.read l x = 0 := by
    intro l x hl
    induction l with
    | nil => rfl
    | cons q l ihl =>
      have hq := hl q (List.mem_cons_self ..)
      rw [Memory.read, if_neg (by omega)]
      exact ihl fun r hr => hl r (List.mem_cons_of_mem _ hr)
  induction m generalizing n with
  | nil =>
    cases n with
    | nil => rfl
    | cons q n =>
      obtain ⟨l, c⟩ := q
      have := h l
      rw [Memory.read, Memory.read, if_pos rfl] at this
      exact absurd this.symm (hn.2 (l, c) (List.mem_cons_self ..))
  | cons p m ih =>
    obtain ⟨k, b⟩ := p
    have hkm : ∀ q ∈ m, k < q.1 := (List.pairwise_cons.mp hm.1).1
    have hbz : b ≠ 0 := hm.2 (k, b) (List.mem_cons_self ..)
    cases n with
    | nil =>
      have := h k
      rw [Memory.read, Memory.read, if_pos rfl] at this
      exact absurd this hbz
    | cons q n =>
      obtain ⟨l, c⟩ := q
      have hln : ∀ q ∈ n, l < q.1 := (List.pairwise_cons.mp hn.1).1
      have hcz : c ≠ 0 := hn.2 (l, c) (List.mem_cons_self ..)
      have hkl : k = l := by
        rcases lt_trichotomy k l with hlt | heq | hgt
        · have := h k
          rw [Memory.read, if_pos rfl, Memory.read, if_neg (by omega),
            low n k fun q hq => lt_trans hlt (hln q hq)] at this
          exact absurd this hbz
        · exact heq
        · have := h l
          rw [Memory.read, if_neg (by omega), low m l fun q hq => lt_trans hgt (hkm q hq), Memory.read,
            if_pos rfl] at this
          exact absurd this.symm hcz
      subst hkl
      have hbc : b = c := by
        have := h k
        simpa [Memory.read] using this
      subst hbc
      have hrest : m = n := by
        refine ih ⟨(List.pairwise_cons.mp hm.1).2, fun q hq => hm.2 q (List.mem_cons_of_mem _ hq)⟩
          ⟨(List.pairwise_cons.mp hn.1).2, fun q hq => hn.2 q (List.mem_cons_of_mem _ hq)⟩ ?_
        intro i
        by_cases hi : i = k
        · subst hi
          rw [low m i hkm, low n i hln]
        · have := h i
          simpa [Memory.read, hi] using this
      rw [hrest]

/-! ### Lanes -/

/-- R53: the lanes of a word made of four bytes. -/
theorem lane_ofLanes (b0 b1 b2 b3 : Byte) :
    lane (ofLanes b0 b1 b2 b3) 0 = b0 ∧ lane (ofLanes b0 b1 b2 b3) 1 = b1 ∧
      lane (ofLanes b0 b1 b2 b3) 2 = b2 ∧ lane (ofLanes b0 b1 b2 b3) 3 = b3 := by
  refine ⟨?_, ?_, ?_, ?_⟩ <;>
    (apply BitVec.eq_of_getLsbD_eq
     intro i hi
     simp only [ofLanes, lane, BitVec.getLsbD_extractLsb', BitVec.getLsbD_append]
     interval_cases i <;> simp)

/-- R53: a word is made of its four lanes. -/
theorem ofLanes_lane (v : Word) : ofLanes (lane v 0) (lane v 1) (lane v 2) (lane v 3) = v := by
  apply BitVec.eq_of_getLsbD_eq
  intro i hi
  simp only [ofLanes, lane, BitVec.getLsbD_append, BitVec.getLsbD_extractLsb']
  interval_cases i <;> simp

/-- R56, R60: a byte of a register after a word is written: the written lane below the limit, 0 at or above it, and
outside the word what was there. -/
theorem storeLanes_getD {n : Nat} (limit : Nat) (r : Vector Byte n) (k : Nat) (v : Word) (i : Nat) :
    (storeLanes limit r k v).getD i 0 =
      if i < n then (if k ≤ i ∧ i < k + 4 then (if i < limit then lane v (i - k) else 0) else r.getD i 0) else 0 := by
  by_cases h : i < n
  · simp [storeLanes, Vector.getD, h]
  · simp [storeLanes, Vector.getD, h]

end Sys2Proof.Machine
end

