-- ==== Sys2Proof/Laws/Cipher.lean ====
section
/-! SUPPORT. The bits of a permutation (R121), the lengths of the block functions' results, and the blocks of a chain. -/

namespace Sys2Proof.Machine

/-! ### Permutations (R121) -/

/-- The bits that were there before a table's bits are appended move up by the table's length. -/
theorem foldl_bits_testBit_add {n : Nat} (x : BitVec n) (t : List Nat) (a m : Nat) :
    (t.foldl (fun acc k => 2 * acc + (x.getMsbD (k - 1)).toNat) a).testBit (t.length + m) = a.testBit m := by
  induction t generalizing a m with
  | nil => simp
  | cons k t ih =>
    have e : (k :: t).length + m = t.length + (m + 1) := by simp only [List.length_cons]; omega
    have hb : (x.getMsbD (k - 1)).toNat ≤ 1 := Bool.toNat_le _
    rw [List.foldl_cons, e, ih, Nat.testBit_succ, show (2 * a + (x.getMsbD (k - 1)).toNat) / 2 = a by omega]

theorem foldl_bits_testBit {n : Nat} (x : BitVec n) (t : List Nat) (a i : Nat) (hi : i < t.length) :
    (t.foldl (fun acc k => 2 * acc + (x.getMsbD (k - 1)).toNat) a).testBit (t.length - 1 - i) =
      x.getMsbD (t.getD i 0 - 1) := by
  induction t generalizing a i with
  | nil => simp at hi
  | cons k t ih =>
    rw [List.foldl_cons]
    cases i with
    | succ i =>
      have hi' : i < t.length := by simpa using hi
      have e : (k :: t).length - 1 - (i + 1) = t.length - 1 - i := by simp only [List.length_cons]; omega
      rw [e, ih _ _ hi']
      simp
    | zero =>
      have h := foldl_bits_testBit_add x t (2 * a + (x.getMsbD (k - 1)).toNat) 0
      simp only [Nat.add_zero] at h
      rw [show (k :: t).length - 1 - 0 = t.length by simp, h, Nat.testBit_zero]
      change _ = x.getMsbD (k - 1)
      cases x.getMsbD (k - 1) <;> simp [Nat.add_mod]

/-- R121: output bit `i` of a table of `m` entries is input bit `T[i]`, both counted from 1 at the most significant
end; here from 0. -/
theorem permute_getMsbD {n m : Nat} (t : List Nat) (x : BitVec n) (i : Nat) (ht : t.length = m) (hi : i < m) :
    (permute m t x).getMsbD i = x.getMsbD (t.getD i 0 - 1) := by
  have h := foldl_bits_testBit x t 0 i (by omega)
  rw [BitVec.getMsbD_eq_getLsbD, permute, BitVec.getLsbD_ofNat, ← h]
  have : m - 1 - i < m := by omega
  simp [hi, this, ht]

/-! ### Lengths -/

@[simp] theorem desCrypt_length (ks : List (BitVec 48)) (b : Bytes) : (desCrypt ks b).length = 8 := by
  simp [desCrypt, desBytes]

@[simp] theorem desEnc_length (k b : Bytes) : (desEnc k b).length = 8 := by simp [desEnc]

@[simp] theorem desDec_length (k b : Bytes) : (desDec k b).length = 8 := by simp [desDec]

theorem keyPart_length (key : Vector Byte 24) {i n : Nat} (h : i + n ≤ 24) : (keyPart key i n).length = n := by
  simp only [keyPart, List.length_take, List.length_drop, Vector.length_toList]; omega

@[simp] theorem aesWords_length (k : Bytes) (n : Nat) : (aesWords k n).length = n + 4 := by
  induction n with
  | zero => rfl
  | succ n ih => simp [aesWords, ih]

theorem aesNextWord_length {ws : List Bytes} {i : Nat} (h : ∀ w ∈ ws, w.length = 4) (hi : 4 ≤ i) (hl : i ≤ ws.length) :
    (aesNextWord ws i).length = 4 := by
  have g : ∀ j, j < ws.length → (ws.getD j []).length = 4 := by
    intro j hj
    rw [List.getD_eq_getElem?_getD, List.getElem?_eq_getElem hj]
    exact h _ (List.getElem_mem hj)
  have h1 := g (i - 1) (by omega)
  have h2 := g (i - 4) (by omega)
  simp only [aesNextWord, xorBytes_length, h2]
  split
  · rfl
  · rw [h1]; rfl

theorem length_of_mem_aesWords {k : Bytes} (hk : 16 ≤ k.length) (n : Nat) : ∀ w ∈ aesWords k n, w.length = 4 := by
  induction n with
  | zero =>
    intro w hw
    simp only [aesWords, List.mem_cons, List.not_mem_nil, or_false] at hw
    rcases hw with rfl | rfl | rfl | rfl <;> simp only [List.length_take, List.length_drop] <;> omega
  | succ n ih =>
    intro w hw
    simp only [aesWords, List.mem_append, List.mem_singleton] at hw
    rcases hw with hw | rfl
    · exact ih w hw
    · exact aesNextWord_length ih (by omega) (by simp)

theorem aesRoundKey_length {k : Bytes} (hk : 16 ≤ k.length) {j : Nat} (hj : j ≤ 10) : (aesRoundKey k j).length = 16 := by
  have g : ∀ i, i < 4 → ((aesWords k 40).getD (4 * j + i) []).length = 4 := by
    intro i hi
    have hl : 4 * j + i < (aesWords k 40).length := by rw [aesWords_length]; omega
    rw [List.getD_eq_getElem?_getD, List.getElem?_eq_getElem hl]
    exact length_of_mem_aesWords hk 40 _ (List.getElem_mem hl)
  simp only [aesRoundKey, List.length_flatMap]
  have e : ∀ l : List Nat, (∀ i ∈ l, i < 4) →
      (l.map fun i => ((aesWords k 40).getD (4 * j + i) []).length) = l.map fun _ => 4 :=
    fun l hl => List.map_congr_left fun i hi => g i (hl i hi)
  rw [e _ fun i hi => List.mem_range.mp hi]
  rfl

@[simp] theorem aesState_length (f : Nat → Nat → Byte) : (aesState f).length = 16 := by simp [aesState]

theorem aesEnc_length {k : Bytes} (hk : 16 ≤ k.length) (b : Bytes) : (aesEnc k b).length = 16 := by
  simp [aesEnc, addRoundKey, shiftRows, aesRoundKey_length hk]

theorem aesDec_length {k : Bytes} (hk : 16 ≤ k.length) (b : Bytes) : (aesDec k b).length = 16 := by
  simp [aesDec, addRoundKey, invShiftRows, invSubBytes, aesRoundKey_length hk]

/-- R120: the block functions give blocks of the key type's size. -/
@[simp] theorem blkEnc_length (kt : KeyType) (key : Vector Byte 24) (b : Bytes) :
    (blkEnc kt key b).length = blockSize kt := by
  cases kt
  · exact desEnc_length _ _
  · exact desEnc_length _ _
  · exact desEnc_length _ _
  · exact aesEnc_length (keyPart_length key (by decide)).ge b

@[simp] theorem blkDec_length (kt : KeyType) (key : Vector Byte 24) (b : Bytes) :
    (blkDec kt key b).length = blockSize kt := by
  cases kt
  · exact desDec_length _ _
  · exact desDec_length _ _
  · exact desDec_length _ _
  · exact aesDec_length (keyPart_length key (by decide)).ge b

@[simp] theorem dbl_length (kt : KeyType) (b : Bytes) : (dbl kt b).length = blockSize kt := by simp [dbl]

/-! ### Blocks of chains (R161, R162) -/

theorem length_of_mem_cbcEncBlocks {kt : KeyType} {key : Vector Byte 24} {prev : Bytes} {ms : List Bytes} {b : Bytes}
    (h : b ∈ cbcEncBlocks kt key prev ms) : b.length = blockSize kt := by
  induction ms generalizing prev with
  | nil => simp [cbcEncBlocks] at h
  | cons m ms ih =>
    simp only [cbcEncBlocks, List.mem_cons] at h
    rcases h with rfl | h
    · simp
    · exact ih h

@[simp] theorem cbcEncBlocks_length (kt : KeyType) (key : Vector Byte 24) (prev : Bytes) (ms : List Bytes) :
    (cbcEncBlocks kt key prev ms).length = ms.length := by
  induction ms generalizing prev with
  | nil => rfl
  | cons m ms ih => simp [cbcEncBlocks, ih]

@[simp] theorem cbcDecBlocks_length (kt : KeyType) (key : Vector Byte 24) (prev : Bytes) (cs : List Bytes) :
    (cbcDecBlocks kt key prev cs).length = cs.length := by
  induction cs generalizing prev with
  | nil => rfl
  | cons c cs ih => simp [cbcDecBlocks, ih]

end Sys2Proof.Machine
end

