-- ==== Sys2Proof/Laws/Commands.lean ====
section
/-! SUPPORT. What the checks of R221 answer, and for each command once everything its completion can be: the checks fail
and only the error is recorded, or they pass and the next state is the one named. -/

namespace Sys2Proof.Machine

/-! ### The checks -/

@[simp] theorem State.checked_some (s : State) (e : ErrKind) (run : State → State) :
    s.checked (some e) run = s.raise e := rfl

@[simp] theorem State.checked_none (s : State) (run : State → State) : s.checked none run = run s := rfl

theorem State.checked_cases (s : State) (check : Option ErrKind) (run : State → State) :
    (∃ e, check = some e ∧ s.checked check run = s.raise e) ∨ (check = none ∧ s.checked check run = run s) := by
  cases check with
  | some e => exact .inl ⟨e, rfl, rfl⟩
  | none => exact .inr ⟨rfl, rfl⟩

theorem State.checkKey_none {s : State} {c : CtxSel} : s.checkKey c = none ↔ (s.ctx c).kv = true := by
  unfold State.checkKey; cases (s.ctx c).kv <;> simp

theorem State.checkKey_some {s : State} {c : CtxSel} {e : ErrKind} :
    s.checkKey c = some e ↔ (s.ctx c).kv = false ∧ e = .state := by
  unfold State.checkKey; cases (s.ctx c).kv <;> simp [eq_comm]

theorem State.checkLength_none {s : State} {len : Nat} {bad : Bool} :
    s.checkLength len bad = none ↔ len ≤ s.cfg.bufBytes ∧ bad = false := by
  unfold State.checkLength
  by_cases h : s.cfg.bufBytes < len
  · simp [h, Nat.not_le.mpr h]
  · cases bad <;> simp [h, Nat.not_lt.mp h]

theorem State.checkLength_some {s : State} {len : Nat} {bad : Bool} {e : ErrKind} :
    s.checkLength len bad = some e ↔ (s.cfg.bufBytes < len ∨ bad = true) ∧ e = .length := by
  unfold State.checkLength
  by_cases h : s.cfg.bufBytes < len
  · simp [h, eq_comm]
  · cases bad <;> simp [h, eq_comm]

theorem State.checkKeyed_none {s : State} {c : CtxSel} {len : Nat} {bad : Bool} :
    s.checkKeyed c len bad = none ↔ (s.ctx c).kv = true ∧ len ≤ s.cfg.bufBytes ∧ bad = false := by
  unfold State.checkKeyed State.checkKey
  cases (s.ctx c).kv <;> simp [State.checkLength_none]

theorem State.checkKeyed_some {s : State} {c : CtxSel} {len : Nat} {bad : Bool} {e : ErrKind} :
    s.checkKeyed c len bad = some e ↔
      ((s.ctx c).kv = false ∧ e = .state) ∨
        ((s.ctx c).kv = true ∧ (s.cfg.bufBytes < len ∨ bad = true) ∧ e = .length) := by
  unfold State.checkKeyed State.checkKey
  cases (s.ctx c).kv
  · simp [eq_comm]
  · simp [State.checkLength_some]

theorem State.checkCrc_none {s : State} {len w : Nat} {app : Bool} :
    s.checkCrc len w app = none ↔ len ≤ s.cfg.bufBytes ∧ (app = true → len + w ≤ s.cfg.bufBytes) := by
  unfold State.checkCrc
  rw [State.checkLength_none]
  cases app <;> simp

theorem State.checkCrc_some {s : State} {len w : Nat} {app : Bool} {e : ErrKind} :
    s.checkCrc len w app = some e ↔
      (s.cfg.bufBytes < len ∨ (app = true ∧ s.cfg.bufBytes < len + w)) ∧ e = .length := by
  unfold State.checkCrc
  rw [State.checkLength_some]
  simp

/-- R22, R221: with a key, the block size of a context is that of its key type. -/
theorem Ctx.bsc_of_kv {x : Ctx} (h : x.kv = true) : x.bsc = blockSize x.kt := by simp [Ctx.bsc, h]

theorem blockSize_pos (kt : KeyType) : 0 < blockSize kt := by cases kt <;> decide

theorem State.ragged_false {s : State} {c : CtxSel} {len : Nat} :
    s.ragged c len = false ↔ len % blockSize (s.ctx c).kt = 0 := by simp [State.ragged]

theorem State.ragged_true {s : State} {c : CtxSel} {len : Nat} :
    s.ragged c len = true ↔ len % blockSize (s.ctx c).kt ≠ 0 := by simp [State.ragged]

/-! ### The commands -/

theorem execNop_cases {s t : State} (h : execNop s = .next t) : t = s.finish := by
  cases h; rfl

theorem execClrctx_cases {c : CtxSel} {s t : State} (h : execClrctx c s = .next t) :
    (c = .s ∧ t = (s.setCtx .s Ctx.clear).clearSession.finish) ∨ (c = .x ∧ t = (s.setCtx .x Ctx.clear).finish) := by
  cases c <;> cases h
  · exact .inl ⟨rfl, rfl⟩
  · exact .inr ⟨rfl, rfl⟩

theorem execLoadkey_cases {c : CtxSel} {kt : KeyType} {s t : State} (h : execLoadkey c kt s = .next t) :
    t = State.finish { s.setCtx c (loadedCtx kt s.keyin) with keyin := Vector.replicate 24 0 } := by
  cases h; rfl

theorem execEcbEnc_cases {c : CtxSel} {len : Nat} {s t : State} (h : execEcbEnc c len s = .next t) :
    (∃ e, s.checkKeyed c len (s.ragged c len) = some e ∧ t = s.raise e) ∨
      (s.checkKeyed c len (s.ragged c len) = none ∧
        t = (s.output (ecbEncBytes (s.ctx c).kt (s.ctx c).key (s.input len))).finish) := by
  unfold execEcbEnc at h
  obtain ⟨e, hc, hr⟩ | ⟨hc, hr⟩ := State.checked_cases s (s.checkKeyed c len (s.ragged c len)) _
  · rw [hr] at h; cases h; exact .inl ⟨e, hc, rfl⟩
  · rw [hr] at h; cases h; exact .inr ⟨hc, rfl⟩

theorem execEcbDec_cases {c : CtxSel} {len : Nat} {s t : State} (h : execEcbDec c len s = .next t) :
    (∃ e, s.checkKeyed c len (s.ragged c len) = some e ∧ t = s.raise e) ∨
      (s.checkKeyed c len (s.ragged c len) = none ∧
        t = (s.output (ecbDecBytes (s.ctx c).kt (s.ctx c).key (s.input len))).finish) := by
  unfold execEcbDec at h
  obtain ⟨e, hc, hr⟩ | ⟨hc, hr⟩ := State.checked_cases s (s.checkKeyed c len (s.ragged c len)) _
  · rw [hr] at h; cases h; exact .inl ⟨e, hc, rfl⟩
  · rw [hr] at h; cases h; exact .inr ⟨hc, rfl⟩

theorem execCbcEnc_cases {c : CtxSel} {uiv ziv pad : Bool} {len : Nat} {s t : State}
    (h : execCbcEnc c uiv ziv pad len s = .next t) :
    (∃ e, s.checkKeyed c len (!pad && s.ragged c len) = some e ∧ t = s.raise e) ∨
      (s.checkKeyed c len (!pad && s.ragged c len) = none ∧
        t = ((s.output (s.cbcEncChain c ziv pad len).1).writeBackIv c uiv (s.message c pad len).length
          (s.cbcEncChain c ziv pad len).2).finish) := by
  unfold execCbcEnc at h
  obtain ⟨e, hc, hr⟩ | ⟨hc, hr⟩ := State.checked_cases s (s.checkKeyed c len (!pad && s.ragged c len)) _
  · rw [hr] at h; cases h; exact .inl ⟨e, hc, rfl⟩
  · rw [hr] at h; cases h; exact .inr ⟨hc, rfl⟩

theorem execCbcDec_cases {c : CtxSel} {uiv ziv : Bool} {len : Nat} {s t : State}
    (h : execCbcDec c uiv ziv len s = .next t) :
    (∃ e, s.checkKeyed c len (s.ragged c len) = some e ∧ t = s.raise e) ∨
      (s.checkKeyed c len (s.ragged c len) = none ∧
        t = ((s.output (s.cbcDecChain c ziv len).1).writeBackIv c uiv len (s.cbcDecChain c ziv len).2).finish) := by
  unfold execCbcDec at h
  obtain ⟨e, hc, hr⟩ | ⟨hc, hr⟩ := State.checked_cases s (s.checkKeyed c len (s.ragged c len)) _
  · rw [hr] at h; cases h; exact .inl ⟨e, hc, rfl⟩
  · rw [hr] at h; cases h; exact .inr ⟨hc, rfl⟩

theorem execCbcMac_cases {c : CtxSel} {uiv ziv pad : Bool} {len : Nat} {s t : State}
    (h : execCbcMac c uiv ziv pad len s = .next t) :
    (∃ e, s.checkKeyed c len (decide (len = 0) || (!pad && s.ragged c len)) = some e ∧ t = s.raise e) ∨
      (s.checkKeyed c len (decide (len = 0) || (!pad && s.ragged c len)) = none ∧
        t = (State.writeBackIv
          { s with
            mac := fixBytes 16 (s.cbcEncChain c ziv pad len).2
            maclen := BitVec.ofNat 5 (blockSize (s.ctx c).kt) }
          c uiv len (s.cbcEncChain c ziv pad len).2).finish) := by
  unfold execCbcMac at h
  obtain ⟨e, hc, hr⟩ | ⟨hc, hr⟩ :=
    State.checked_cases s (s.checkKeyed c len (decide (len = 0) || (!pad && s.ragged c len))) _
  · rw [hr] at h; cases h; exact .inl ⟨e, hc, rfl⟩
  · rw [hr] at h; cases h; exact .inr ⟨hc, rfl⟩

theorem execSubk_cases {c : CtxSel} {s t : State} (h : execSubk c s = .next t) :
    (∃ e, s.checkKey c = some e ∧ t = s.raise e) ∨
      (s.checkKey c = none ∧ t = (s.setSubkeys (subkeys (s.ctx c).kt (s.ctx c).key)).finish) := by
  unfold execSubk at h
  obtain ⟨e, hc, hr⟩ | ⟨hc, hr⟩ := State.checked_cases s (s.checkKey c) _
  · rw [hr] at h; cases h; exact .inl ⟨e, hc, rfl⟩
  · rw [hr] at h; cases h; exact .inr ⟨hc, rfl⟩

theorem execCmac_cases {c : CtxSel} {uiv ziv vfy : Bool} {len : Nat} {s t : State}
    (h : execCmac c uiv ziv vfy len s = .next t) :
    (∃ e, s.checkKeyed c len (decide (len = 0)) = some e ∧ t = s.raise e) ∨
      (s.checkKeyed c len (decide (len = 0)) = none ∧
        ((vfy = true ∧ (s.cmacWrites c uiv ziv len).macMatches = false ∧
            t = (s.cmacWrites c uiv ziv len).raise .integrity) ∨
          ((vfy = true → (s.cmacWrites c uiv ziv len).macMatches = true) ∧
            t = (s.cmacWrites c uiv ziv len).finish))) := by
  unfold execCmac at h
  obtain ⟨e, hc, hr⟩ | ⟨hc, hr⟩ := State.checked_cases s (s.checkKeyed c len (decide (len = 0))) _
  · rw [hr] at h; cases h; exact .inl ⟨e, hc, rfl⟩
  · rw [hr] at h
    refine .inr ⟨hc, ?_⟩
    cases h
    cases vfy <;> cases (s.cmacWrites c uiv ziv len).macMatches <;> simp

theorem execCrc16_cases {cont app : Bool} {len : Nat} {s t : State} (h : execCrc16 cont app len s = .next t) :
    (∃ e, s.checkCrc len 2 app = some e ∧ t = s.raise e) ∨
      (s.checkCrc len 2 app = none ∧
        t = (State.appendCrc { s with crc16Acc := s.crc16Of cont len } app len
          (leBytes 2 (s.crc16Of cont len))).finish) := by
  unfold execCrc16 at h
  obtain ⟨e, hc, hr⟩ | ⟨hc, hr⟩ := State.checked_cases s (s.checkCrc len 2 app) _
  · rw [hr] at h; cases h; exact .inl ⟨e, hc, rfl⟩
  · rw [hr] at h; cases h; exact .inr ⟨hc, rfl⟩

theorem execCrc32_cases {cont app : Bool} {len : Nat} {s t : State} (h : execCrc32 cont app len s = .next t) :
    (∃ e, s.checkCrc len 4 app = some e ∧ t = s.raise e) ∨
      (s.checkCrc len 4 app = none ∧
        t = (State.appendCrc { s with crc32Acc := s.crc32Of cont len } app len
          (leBytes 4 (crc32Final (s.crc32Of cont len)))).finish) := by
  unfold execCrc32 at h
  obtain ⟨e, hc, hr⟩ | ⟨hc, hr⟩ := State.checked_cases s (s.checkCrc len 4 app) _
  · rw [hr] at h; cases h; exact .inl ⟨e, hc, rfl⟩
  · rw [hr] at h; cases h; exact .inr ⟨hc, rfl⟩

/-- R142, R143, R165 to R167, R187, R188, R207, R208: every meaning answers a next state. -/
theorem exec_answers_next (i : Instr) (s : State) : ∃ t, exec i s = .next t := by
  cases i with
  | clrctx c => cases c <;> exact ⟨_, rfl⟩
  | nop => exact ⟨_, rfl⟩
  | loadkey c kt => exact ⟨_, rfl⟩
  | ecbEnc c len => exact ⟨_, rfl⟩
  | ecbDec c len => exact ⟨_, rfl⟩
  | cbcEnc c u z p len => exact ⟨_, rfl⟩
  | cbcDec c u z len => exact ⟨_, rfl⟩
  | cbcMac c u z p len => exact ⟨_, rfl⟩
  | subk c => exact ⟨_, rfl⟩
  | cmac c u z v len => exact ⟨_, rfl⟩
  | crc16 n a len => exact ⟨_, rfl⟩
  | crc32 n a len => exact ⟨_, rfl⟩

end Sys2Proof.Machine
end

