-- ==== Sys2Proof/Laws/Encoding.lean ====
section
/-! SUPPORT. The two halves of a command word: what the encoder puts there, and R85's mask and match over each half. -/

namespace Sys2Proof

/-- Two words are equal exactly when their halves are. -/
theorem word_beq_halves (a b : Word) :
    (a == b) = ((a.extractLsb' 0 16 == b.extractLsb' 0 16) && (a.extractLsb' 16 16 == b.extractLsb' 16 16)) := by
  rw [Bool.eq_iff_iff]
  simp only [beq_iff_eq, Bool.and_eq_true]
  constructor
  · rintro rfl; exact ⟨rfl, rfl⟩
  · rintro ⟨h0, h1⟩
    apply BitVec.eq_of_getLsbD_eq
    intro i hi
    by_cases h : i < 16
    · simpa [BitVec.getLsbD_extractLsb', h] using congrArg (fun x => x.getLsbD i) h0
    · have e : 16 + (i - 16) = i := by omega
      have e2 : i - 16 < 16 := by omega
      simpa [BitVec.getLsbD_extractLsb', e, e2] using congrArg (fun x => x.getLsbD (i - 16)) h1

/-- R81: the low half of an encoded word: reserved bit, flags, context, opcode. -/
theorem packWord_lo (op : BitVec 8) (ctx uiv ziv pad cont vfy app : Bool) (arg : BitVec 16) :
    (packWord op ctx uiv ziv pad cont vfy app arg).extractLsb' 0 16 =
      0#1 ++ BitVec.ofBool app ++ BitVec.ofBool vfy ++ BitVec.ofBool cont ++ BitVec.ofBool pad ++
        BitVec.ofBool ziv ++ BitVec.ofBool uiv ++ BitVec.ofBool ctx ++ op := by
  apply BitVec.eq_of_getLsbD_eq
  intro i hi
  simp only [packWord, BitVec.getLsbD_extractLsb', BitVec.getLsbD_append, hi]
  by_cases h : i < 8
  · simp [h]
  · have : i = 8 ∨ i = 9 ∨ i = 10 ∨ i = 11 ∨ i = 12 ∨ i = 13 ∨ i = 14 ∨ i = 15 := by omega
    rcases this with rfl | rfl | rfl | rfl | rfl | rfl | rfl | rfl <;> simp

/-- R81: the high half of an encoded word: `ARG`. -/
theorem packWord_hi (op : BitVec 8) (ctx uiv ziv pad cont vfy app : Bool) (arg : BitVec 16) :
    (packWord op ctx uiv ziv pad cont vfy app arg).extractLsb' 16 16 = arg := by
  apply BitVec.eq_of_getLsbD_eq
  intro i hi
  have h1 : ¬16 + i < 8 := by omega
  have h2 : ∀ k, k ≤ 7 → ¬16 + i - 8 - k < 1 := by omega
  simp only [packWord, BitVec.getLsbD_extractLsb', BitVec.getLsbD_append, hi, h1, Nat.sub_sub] at h2 ⊢
  simp [h2 0, h2 1, h2 2, h2 3, h2 4, h2 5, h2 6, h2 7]

/-- R85: mask and match, half by half. -/
theorem Row.fits_halves (r : Row) (cw : Word) :
    r.fits cw =
      ((cw.extractLsb' 0 16 &&& r.mask.extractLsb' 0 16 == r.pattern.extractLsb' 0 16) &&
        (cw.extractLsb' 16 16 &&& r.mask.extractLsb' 16 16 == r.pattern.extractLsb' 16 16)) := by
  have h (k : Nat) : (cw &&& r.mask).extractLsb' k 16 = cw.extractLsb' k 16 &&& r.mask.extractLsb' k 16 := by
    apply BitVec.eq_of_getLsbD_eq
    intro i hi
    simp [hi]
  rw [Row.fits, word_beq_halves, h, h]

end Sys2Proof
end

