-- ==== Sys2Proof/Laws/PerInstr.lean ====
section
/-! SUPPORT. The statement made for each constructor of Instr: its encoding fits a row of the opcode table (R85). -/

namespace Sys2Proof.Laws.MatchesRow

/-- R85: the encoding of the command fits a row of the opcode table, the row of its opcode. -/
def Statement (i : Instr) : Prop := ∃ r ∈ rows, r.fits (encode i) = true ∧ fieldOp (encode i) = r.op

/-- A word whose low half shows the row's opcode and flags and whose high half passes the row's mask. -/
theorem of_row {i : Instr} (k : Nat) (hk : k < rows.length)
    (h : rows[k].fits (encode i) = true ∧ fieldOp (encode i) = rows[k].op) : Statement i :=
  ⟨rows[k], List.getElem_mem hk, h⟩

theorem fieldOp_packWord (op : BitVec 8) (ctx uiv ziv pad cont vfy app : Bool) (arg : BitVec 16) :
    fieldOp (packWord op ctx uiv ziv pad cont vfy app arg) = op := by
  apply BitVec.eq_of_getLsbD_eq
  intro i hi
  rw [fieldOp, packWord, BitVec.getLsbD_extractLsb', BitVec.getLsbD_append]
  simp [hi]

theorem nop : Statement .nop := of_row 0 (by decide) (by decide)

theorem clrctx (c : CtxSel) : Statement (.clrctx c) := of_row 1 (by decide) (by cases c <;> decide)

theorem loadkey (c : CtxSel) (kt : KeyType) : Statement (.loadkey c kt) :=
  of_row 2 (by decide) (by cases c <;> cases kt <;> decide)

theorem ecbEnc (c : CtxSel) (len : Nat) : Statement (.ecbEnc c len) :=
  of_row 3 (by decide) ⟨by
    rw [Row.fits_halves]; simp only [encode, packWord_lo, packWord_hi]; cases c <;> simp [rows, CtxSel.bit],
    fieldOp_packWord ..⟩

theorem ecbDec (c : CtxSel) (len : Nat) : Statement (.ecbDec c len) :=
  of_row 4 (by decide) ⟨by
    rw [Row.fits_halves]; simp only [encode, packWord_lo, packWord_hi]; cases c <;> simp [rows, CtxSel.bit],
    fieldOp_packWord ..⟩

theorem cbcEnc (c : CtxSel) (uiv ziv pad : Bool) (len : Nat) : Statement (.cbcEnc c uiv ziv pad len) :=
  of_row 5 (by decide) ⟨by
    rw [Row.fits_halves]; simp only [encode, packWord_lo, packWord_hi]
    cases c <;> cases uiv <;> cases ziv <;> cases pad <;> simp [rows, CtxSel.bit],
    fieldOp_packWord ..⟩

theorem cbcDec (c : CtxSel) (uiv ziv : Bool) (len : Nat) : Statement (.cbcDec c uiv ziv len) :=
  of_row 6 (by decide) ⟨by
    rw [Row.fits_halves]; simp only [encode, packWord_lo, packWord_hi]
    cases c <;> cases uiv <;> cases ziv <;> simp [rows, CtxSel.bit],
    fieldOp_packWord ..⟩

theorem cbcMac (c : CtxSel) (uiv ziv pad : Bool) (len : Nat) : Statement (.cbcMac c uiv ziv pad len) :=
  of_row 7 (by decide) ⟨by
    rw [Row.fits_halves]; simp only [encode, packWord_lo, packWord_hi]
    cases c <;> cases uiv <;> cases ziv <;> cases pad <;> simp [rows, CtxSel.bit],
    fieldOp_packWord ..⟩

theorem subk (c : CtxSel) : Statement (.subk c) := of_row 8 (by decide) (by cases c <;> decide)

theorem cmac (c : CtxSel) (uiv ziv vfy : Bool) (len : Nat) : Statement (.cmac c uiv ziv vfy len) :=
  of_row 9 (by decide) ⟨by
    rw [Row.fits_halves]; simp only [encode, packWord_lo, packWord_hi]
    cases c <;> cases uiv <;> cases ziv <;> cases vfy <;> simp [rows, CtxSel.bit],
    fieldOp_packWord ..⟩

theorem crc16 (cont app : Bool) (len : Nat) : Statement (.crc16 cont app len) :=
  of_row 10 (by decide) ⟨by
    rw [Row.fits_halves]; simp only [encode, packWord_lo, packWord_hi]; cases cont <;> cases app <;> simp [rows],
    fieldOp_packWord ..⟩

theorem crc32 (cont app : Bool) (len : Nat) : Statement (.crc32 cont app len) :=
  of_row 11 (by decide) ⟨by
    rw [Row.fits_halves]; simp only [encode, packWord_lo, packWord_hi]; cases cont <;> cases app <;> simp [rows],
    fieldOp_packWord ..⟩

end Sys2Proof.Laws.MatchesRow
end

