-- ==== Sys2Proof/Tests/Slice0.lean ====
section
/-! SUPPORT. The model's own tests. Expected values are the spec's: 95_test_vectors.md and the examples of the rules;
each test names its source. -/

namespace Sys2Proof.Tests

open Sys2Proof Sys2Proof.Machine

/-! ### Helpers -/

/-- A state with a key in a context, a command in flight and input in DIN. -/
def ready (c : CtxSel) (kt : KeyType) (key din : Bytes) : State :=
  { (State.reset.setCtx c { kv := true, kt := kt, key := fixBytes 24 key, iv := Vector.replicate 16 0 }) with
    busy := true, din := Memory.writeBytes [] 0 din }

/-- What a view shows of the next state, if there is one. -/
def after {α : Type} (o : Host.Outcome State Fault Refusal) (view : State → α) : Option α :=
  match o with
  | .next t => some (view t)
  | .fault _ => none
  | .refused _ => none

/-- The state after `k` steps, from reset with an agenda. -/
def runFrom (agenda : List Event) (k : Nat) : Host.Outcome State Fault Refusal :=
  core.run k { State.reset with agenda := agenda }

/-- "01 23 45 67 89 AB CD EF", a DES key of 95_test_vectors.md. -/
def desKey : Bytes := [0x01, 0x23, 0x45, 0x67, 0x89, 0xAB, 0xCD, 0xEF]

/-- "01 23 .. EF 23 45 .. 01", the two-key triple-DES key of 95_test_vectors.md. -/
def tdesKey : Bytes := desKey ++ [0x23, 0x45, 0x67, 0x89, 0xAB, 0xCD, 0xEF, 0x01]

/-- The bytes `00 01 .. 0F`. -/
def aesKey : Bytes := [0, 1, 2, 3, 4, 5, 6, 7, 8, 9, 10, 11, 12, 13, 14, 15]

/-! ### Well-formedness: each check refuses a length of 65536 (R83) -/

theorem test_wf_refuses_ecbEnc : (Instr.ecbEnc .s 65536).wellFormed = false := by decide
theorem test_wf_refuses_ecbDec : (Instr.ecbDec .x 65536).wellFormed = false := by decide
theorem test_wf_refuses_cbcEnc : (Instr.cbcEnc .s true false true 65536).wellFormed = false := by decide
theorem test_wf_refuses_cbcDec : (Instr.cbcDec .s true false 65536).wellFormed = false := by decide
theorem test_wf_refuses_cbcMac : (Instr.cbcMac .x false true true 65536).wellFormed = false := by decide
theorem test_wf_refuses_cmac : (Instr.cmac .s true false true 65536).wellFormed = false := by decide
theorem test_wf_refuses_crc16 : (Instr.crc16 false true 65536).wellFormed = false := by decide
theorem test_wf_refuses_crc32 : (Instr.crc32 true false 65536).wellFormed = false := by decide
theorem test_wf_accepts_longest : (Instr.ecbEnc .s 65535).wellFormed = true := by decide

/-! ### Decoding: words written out from R81 and R85; the lines of 95_test_vectors.md section 3.1 -/

theorem test_decode_nop : decodeTableWord 32 0x00000000 = some .nop := by decide
theorem test_decode_clrctx : decodeTableWord 32 0x00000101 = some (.clrctx .x) := by decide
theorem test_decode_loadkey : decodeTableWord 32 0x00020102 = some (.loadkey .x .tdes3) := by decide
theorem test_decode_ecbEnc : decodeTableWord 32 0xFFFF0010 = some (.ecbEnc .s 65535) := by decide
theorem test_decode_ecbDec : decodeTableWord 32 0x00200111 = some (.ecbDec .x 32) := by decide
theorem test_decode_cbcEnc : decodeTableWord 32 0x00180A20 = some (.cbcEnc .s true false true 24) := by decide
theorem test_decode_cbcDec : decodeTableWord 32 0x00080721 = some (.cbcDec .x true true 8) := by decide
theorem test_decode_cbcMac : decodeTableWord 32 0x000A0D22 = some (.cbcMac .x false true true 10) := by decide
theorem test_decode_subk : decodeTableWord 32 0x00000130 = some (.subk .x) := by decide
theorem test_decode_cmac : decodeTableWord 32 0x00102231 = some (.cmac .s true false true 16) := by decide
theorem test_decode_crc16 : decodeTableWord 32 0x00031040 = some (.crc16 true false 3) := by decide
theorem test_decode_crc32 : decodeTableWord 32 0x00055041 = some (.crc32 true true 5) := by decide

/-- The illegal words of 95_test_vectors.md section 3.1. -/
theorem test_decode_illegal :
    ([0x00000100, 0x00010000, 0x00000003, 0x000000FF, 0x00000012, 0x00000023, 0x00000032, 0x00000042, 0x00008010,
      0x00080210, 0x00100821, 0x00101020, 0x00102020, 0x00100831, 0x00084122, 0x00040002, 0x00010001, 0x00010030,
      0x00080140, 0x00082041, 0xFFFFFFFF].all fun w => decodeTableWord 32 w == none) = true := by decide

theorem test_illegal_names :
    [whyIllegal 0x00000003, whyIllegal 0x00008010, whyIllegal 0x00080210, whyIllegal 0x00040002] =
      [.unknownOpcode, .reservedBit, .flagNotAllowed, .argOutOfRange] := by decide

/-- Section 3.1: `cbc.enc s, 24, uiv, pad` is `0x00180A20`; `crc32 5, cont, app` is `0x00055041`. -/
theorem test_encode_words :
    [encode (.cbcEnc .s true false true 24), encode (.cmac .s true false true 16), encode (.loadkey .x .tdes3),
      encode (.crc32 true true 5)] = [0x00180A20, 0x00102231, 0x00020102, 0x00055041] := by decide

/-! ### The context commands -/

/-- R112: after `nop`, `STATUS = 0x00000002`. -/
theorem test_nop_status : after (step (State.reset.withFetchWord 32 0)) State.statusWord = some 0x00000002 := by decide

/-- R113: `clrctx s` clears the session and leaves context X. -/
theorem test_clrctx_s :
    after (exec (.clrctx .s) { ready .x .aes aesKey [1, 2, 3] with ctxS := (ready .s .des desKey []).ctxS })
      (fun t => (t.ctxS.statusWord, t.ctxX.statusWord, t.din)) = some (0x00000000, 0x00001007, []) := by decide

/-- Section 3.2: `clrctx x` leaves S. -/
theorem test_clrctx_x :
    after (exec (.clrctx .x) { ready .x .aes aesKey [1] with ctxS := (ready .s .des desKey []).ctxS })
      (fun t => (t.ctxS.statusWord, t.ctxX.statusWord, t.din)) = some (0x00000801, 0x00000000, [(0, 1)]) := by decide

/-- R114: `loadkey s, aes` from `KEYIN = 00 01 .. 0F` gives `CTXS = 0x00001007`, and KEYIN is zeroed. -/
theorem test_loadkey_aes :
    after (exec (.loadkey .s .aes) { State.reset with keyin := fixBytes 24 aesKey })
      (fun t => (t.ctxS.statusWord, t.ctxS.key.toList.take 16, t.keyin)) =
        some (0x00001007, aesKey, Vector.replicate 24 0) := by decide

/-- Section 3.2: a two-key key with equal halves reads `CTXS = 0x0000080B`. -/
theorem test_loadkey_sdes :
    after (exec (.loadkey .s .tdes2) { State.reset with keyin := fixBytes 24 (desKey ++ desKey) })
      (fun t => t.ctxS.statusWord) = some 0x0000080B := by decide

/-! ### The keyed commands -/

/-- R142: the AES example. -/
theorem test_ecbEnc_aes :
    after (exec (.ecbEnc .s 16) (ready .s .aes aesKey
        [0x00, 0x11, 0x22, 0x33, 0x44, 0x55, 0x66, 0x77, 0x88, 0x99, 0xAA, 0xBB, 0xCC, 0xDD, 0xEE, 0xFF]))
      (fun t => (Memory.readBytes t.dout 0 16, t.outlen)) =
        some ([0x69, 0xC4, 0xE0, 0xD8, 0x6A, 0x7B, 0x04, 0x30, 0xD8, 0xCD, 0xB7, 0x80, 0x70, 0xB4, 0xC5, 0x5A], 16) := by
  decide +kernel

/-- Section 3.8: `ecb.enc s, 7` with a des key is `E_LENGTH`. -/
theorem test_ecbEnc_ragged :
    after (exec (.ecbEnc .s 7) (ready .s .des desKey [])) State.statusWord = some 0x00000306 := by decide

/-- R143: the DES example. -/
theorem test_ecbDec_des :
    after (exec (.ecbDec .s 8) (ready .s .des [0x13, 0x34, 0x57, 0x79, 0x9B, 0xBC, 0xDF, 0xF1]
        [0x85, 0xE8, 0x13, 0x54, 0x0F, 0x0A, 0xB4, 0x05]))
      (fun t => Memory.readBytes t.dout 0 8) = some [0x01, 0x23, 0x45, 0x67, 0x89, 0xAB, 0xCD, 0xEF] := by
  decide +kernel

/-- R141: `AesDec(0^16, 0^16)`. -/
theorem test_aesDec_zero :
    aesDec (zeros 16) (zeros 16) =
      [0x14, 0x0F, 0x0F, 0x10, 0x11, 0xB5, 0x22, 0x3D, 0x79, 0x58, 0x77, 0x17, 0xFF, 0xD9, 0xEC, 0x3A] := by
  decide +kernel

/-- R132: the three-key triple-DES example. -/
theorem test_blkEnc_tdes3 :
    blkEnc .tdes3 (fixBytes 24 (tdesKey ++ [0x45, 0x67, 0x89, 0xAB, 0xCD, 0xEF, 0x01, 0x23]))
      [0x54, 0x68, 0x65, 0x20, 0x71, 0x75, 0x69, 0x63] = [0x1C, 0xCF, 0x23, 0x86, 0x9D, 0x09, 0x33, 0x3E] := by
  decide +kernel

/-- R165: the example, `cbc.enc s, 5, uiv, pad`. -/
theorem test_cbcEnc_pad :
    after (exec (.cbcEnc .s true false true 5) (ready .s .des desKey [1, 2, 3, 4, 5]))
      (fun t => (Memory.readBytes t.dout 0 8, t.outlen, t.ctxS.iv.toList.take 8)) =
        some ([0x50, 0x03, 0x0B, 0xAD, 0xD2, 0x82, 0xFB, 0xBD], 8, [0x50, 0x03, 0x0B, 0xAD, 0xD2, 0x82, 0xFB, 0xBD]) := by
  decide +kernel

/-- R165: the same command without `pad` ends with `E_LENGTH`. -/
theorem test_cbcEnc_ragged :
    after (exec (.cbcEnc .s true false false 5) (ready .s .des desKey [])) State.statusWord = some 0x00000306 := by decide

/-- R166: the example, `cbc.dec x, 16, ziv, uiv`. -/
theorem test_cbcDec_tdes2 :
    after (exec (.cbcDec .x true true 16) (ready .x .tdes2 tdesKey
        [0xB3, 0x10, 0xE4, 0x68, 0x8D, 0xD6, 0xEB, 0x8A, 0x39, 0xA1, 0xBC, 0xC3, 0x9E, 0x83, 0x2F, 0xC7]))
      (fun t => (Memory.readBytes t.dout 0 16, t.ctxX.iv.toList.take 8)) =
        some ([1, 2, 3, 4, 5, 6, 7, 8, 9, 10, 0, 0, 0, 0, 0, 0], [0x39, 0xA1, 0xBC, 0xC3, 0x9E, 0x83, 0x2F, 0xC7]) := by
  decide +kernel

/-- R167: the example, `cbc.mac x, 10, ziv, pad`. -/
theorem test_cbcMac_tdes2 :
    after (exec (.cbcMac .x false true true 10) (ready .x .tdes2 tdesKey [1, 2, 3, 4, 5, 6, 7, 8, 9, 10]))
      (fun t => (t.mac, t.maclen, t.ctxX.iv)) =
        some (fixBytes 16 [0x39, 0xA1, 0xBC, 0xC3, 0x9E, 0x83, 0x2F, 0xC7], 8, Vector.replicate 16 0) := by
  decide +kernel

/-- R187: the example, `subk s` with the AES key of zeros. -/
theorem test_subk_aes :
    after (exec (.subk .s) (ready .s .aes [] [])) (fun t => (t.k1.toList, t.k2.toList)) =
      some ([0xCD, 0xD2, 0x97, 0xA9, 0xDF, 0x14, 0x58, 0x77, 0x10, 0x99, 0xF4, 0xB3, 0x94, 0x68, 0x56, 0x5C],
        [0x9B, 0xA5, 0x2F, 0x53, 0xBE, 0x28, 0xB0, 0xEE, 0x21, 0x33, 0xE9, 0x67, 0x28, 0xD0, 0xAC, 0x3F]) := by
  decide +kernel

/-- R188: the first command of the chained example, `cmac s, 1, uiv` on `6F`. -/
theorem test_cmac_aes :
    after (exec (.cmac .s true false false 1) (ready .s .aes [] [0x6F]))
      (fun t => (t.mac.toList.take 8, t.maclen, t.ctxS.iv.toList)) =
        some ([0xEF, 0xE8, 0x91, 0xD8, 0xFE, 0x98, 0x99, 0x0F], 8,
          [0x9B, 0x59, 0xD9, 0xF3, 0x24, 0x87, 0x5F, 0x4A, 0xEF, 0xE8, 0x91, 0xD8, 0xFE, 0x98, 0x99, 0x0F]) := by
  decide +kernel

/-- Section 3.5: des key, `cmac s, 8, ziv`; with `vfy` and EXPECT zero it ends with `E_INTEGRITY` and keeps the MAC. -/
theorem test_cmac_verify_fails :
    after (exec (.cmac .s false true true 8) (ready .s .des desKey [1, 2, 3, 4, 5, 6, 7, 8]))
      (fun t => (t.mac.toList.take 8, t.statusWord)) =
        some ([0x22, 0xCB, 0x16, 0x3E, 0x20, 0x41, 0xF6, 0x31], 0x00000406) := by
  decide +kernel

/-! ### The CRC commands -/

/-- R207: the example, `crc16 2, app` on `12 34`. -/
theorem test_crc16_app :
    after (exec (.crc16 false true 2) { State.reset with din := [(0, 0x12), (1, 0x34)] })
      (fun t => (t.crc16Acc, Memory.readBytes t.din 0 5)) = some (0xCF26, [0x12, 0x34, 0x26, 0xCF, 0x00]) := by
  decide +kernel

/-- Section 3.8: `crc16 1023, app` is `E_LENGTH` with the default buffer. -/
theorem test_crc16_too_long :
    after (exec (.crc16 false true 1023) State.reset) State.statusWord = some 0x00000306 := by decide

/-- R208: the example, `crc32 9, app` on "123456789". -/
theorem test_crc32_app :
    after (exec (.crc32 false true 9)
        { State.reset with din := Memory.writeBytes [] 0 [0x31, 0x32, 0x33, 0x34, 0x35, 0x36, 0x37, 0x38, 0x39] })
      (fun t => (crc32Final t.crc32Acc, Memory.readBytes t.din 9 4)) = some (0xCBF43926, [0x26, 0x39, 0xF4, 0xCB]) := by
  decide +kernel

/-- Section 3.6: continuing over no bytes keeps the value. -/
theorem test_crc32_cont_empty :
    after (exec (.crc32 true false 0) { State.reset with crc32Acc := 0x340BC6D9 }) (fun t => t.crc32Acc) =
      some 0x340BC6D9 := by decide

/-! ### The bus, the busy window, reset (95_test_vectors.md section 3.7) -/

theorem test_bus_errors :
    (State.reset.hostRead 0x00002).replies = [.error .misaligned] ∧
    (State.reset.hostRead 0x00028).replies = [.error .unmapped] ∧
    (State.reset.hostWrite 0x000C0 0x12345678).replies = [.error .unmapped] ∧
    (State.reset.hostRead 0x103FC).replies = [.data 0] ∧
    (State.reset.hostRead 0x10400).replies = [.error .unmapped] := by decide

theorem test_id : (State.reset.hostRead 0x00000).replies = [.data 0x4C4C4107] := by decide

theorem test_ctrl_reserved : (State.reset.hostWrite 0x00004 0xFFFFFFFE).ctrlWord = 0x00000006 := by decide

/-- R53: the bytes `01 23 45 67` of DIN read as `0x67452301`. -/
theorem test_din_lanes : (State.reset.hostWrite 0x10000 0x67452301).din = [(0, 0x01), (1, 0x23), (2, 0x45), (3, 0x67)] := by
  decide

/-- A write and a command while busy are ignored and set WIB; the completion then leaves `STATUS = 0x0000000A`. -/
theorem test_busy_window :
    after (runFrom [.hostWrite 0x0000C 0x00000000, .hostWrite 0x10000 0xFFFFFFFF, .hostWrite 0x0000C 0x00000003,
        .hostRead 0x00008, .engine] 5)
      (fun t => (t.replies.head?, t.statusWord, t.din, t.cmdCur)) =
        some (some (.data 0x00000009), 0x0000000A, [], 0) := by decide

/-- The soft reset abandons the command in flight. -/
theorem test_soft_reset :
    after (runFrom [.hostWrite 0x00004 0x00000006, .hostWrite 0x0000C 0x00080220, .hostWrite 0x00004 0x00000001] 3)
      (fun t => t.toCeb) = some Ceb.reset := by decide

/-- The IV register of a context without a key ignores writes; with a des key only eight bytes are kept. -/
theorem test_iv_masked :
    (State.reset.hostWrite 0x00060 0x44332211).ctxS.iv = Vector.replicate 16 0 ∧
    (((ready .s .des desKey []).acknowledge 0).writeIv .s 4 0x88776655).ctxS.iv.toList =
      [0, 0, 0, 0, 0x55, 0x66, 0x77, 0x88, 0, 0, 0, 0, 0, 0, 0, 0] ∧
    (((ready .s .des desKey []).acknowledge 0).writeIv .s 8 0x88776655).ctxS.iv = Vector.replicate 16 0 := by decide

/-- Section 3.8: with no key `ecb.enc s, 7` reports `E_STATE`; a word that is also illegal reports `E_ILLCMD`. -/
theorem test_error_priority :
    after (step (State.reset.withFetchWord 32 0x00070010)) State.statusWord = some 0x00000206 ∧
    after (step (State.reset.withFetchWord 32 0x00078010)) State.statusWord = some 0x00000106 := by decide

/-! ### Witnesses: for each statement with hypotheses, a state and operands that meet them together, one for each clause,
at the end of the range where there is one -/

/-- An idle machine with a key in a context, and an agenda. -/
def idle (c : CtxSel) (kt : KeyType) (key din : Bytes) (agenda : List Event) : State :=
  { ready c kt key din with busy := false, agenda := agenda }

/-- A register whose bytes from `b` up are zero as far as it reaches reads zero from `b` up. -/
theorem zero_from {n : Nat} (v : Vector Byte n) (b : Nat) (h : ∀ k, k < n → b ≤ k → v.getD k 0 = 0) (k : Nat)
    (hk : b ≤ k) : v.getD k 0 = 0 := by
  by_cases hn : k < n
  · exact h k hn hk
  · simp [Vector.getD, hn]

theorem witness_DecodeOfEncode :
    (Instr.cbcEnc .x true true true 65535).wellFormed = true ∧ (Instr.loadkey .x .aes).wellFormed = true := by decide

theorem witness_EncodeOfDecode : decode 0xFFFF0F20 = .ok (.cbcEnc .x true true true 65535) := by decide

theorem witness_IllegalWordOnlyRecordsError :
    ∃ (s : State) (cw : Word), ¬legalWord cw ∧ s.busy = false ∧ s.agenda = [.hostWrite 0x0000C cw, .engine] :=
  ⟨idle .s .aes aesKey [] [.hostWrite 0x0000C 0x00040002, .engine], 0x00040002,
    by unfold legalWord flagsAmong; decide, rfl, rfl⟩

theorem witness_StepRunsDecodedCommand :
    ∃ s t : State, (s.busy = true ∧ decode s.cmdCur = .ok (.cmac .s true false true 16) ∧ s.agenda = []) ∧
      (t.busy = true ∧ decode t.cmdCur = .ok (.cmac .s true false true 16) ∧ t.agenda = [.engine]) :=
  ⟨{ ready .s .aes aesKey [] with cmdCur := 0x00102231 },
    { ready .s .aes aesKey [] with cmdCur := 0x00102231, agenda := [.engine] }, by decide⟩

theorem witness_EveryStepAnswersNext :
    ∃ s t : State, (s.busy = false ∧ s.agenda = []) ∧ (t.busy = false ∧ t.agenda = [.engine]) :=
  ⟨idle .s .aes aesKey [1] [], idle .s .aes aesKey [1] [.engine], by decide⟩

theorem witness_ResetGivesEveryElement :
    ∃ (s t : State) (v : Word), s.agenda = [.rst] ∧ (t.agenda = [.hostWrite 0x00004 v] ∧ v.getLsbD 0 = true) :=
  ⟨{ ready .s .des desKey [1] with agenda := [.rst] }, { ready .s .des desKey [1] with agenda := [.hostWrite 0x00004 7] },
    7, by decide⟩

/-- A state with a key, an IV, input and a command in flight that meets the invariant. -/
theorem ready_inv : ({ ready .s .des desKey [1, 2] with cmdCur := 0x00080220, ctxX := (ready .s .des desKey []).ctxS } :
    State).Inv := by
  refine ⟨fun c => ?_, fun c => ?_, ?_, ?_, ?_⟩
  · cases c <;> exact zero_from _ _ (by decide)
  · cases c <;> exact ⟨zero_from _ _ (by decide), by decide⟩
  · unfold State.buffersOk; decide
  · exact ⟨by decide, zero_from _ _ (by decide)⟩
  · unfold State.flagsOk; decide

theorem witness_StepKeepsInvariant : ∃ s t : State, s.Inv ∧ step s = .next t := ⟨_, _, ready_inv, rfl⟩

theorem witness_CommandsWriteOnlyTheirElements :
    (∃ s t : State, exec (.subk .s) s = .next t) ∧ Instr.subk .s ≠ .clrctx .s ∧ (∀ c kt, Instr.subk .s ≠ .loadkey c kt) ∧
      (∀ cont len, Instr.subk .s ≠ .crc16 cont true len ∧ Instr.subk .s ≠ .crc32 cont true len) ∧
      ((∀ c len, Instr.subk .s ≠ .ecbEnc c len ∧ Instr.subk .s ≠ .ecbDec c len) ∧
        (∀ c u z p len, Instr.subk .s ≠ .cbcEnc c u z p len) ∧ ∀ c u z len, Instr.subk .s ≠ .cbcDec c u z len) ∧
      ((∀ c u z p len, Instr.subk .s ≠ .cbcMac c u z p len) ∧ ∀ c u z v len, Instr.subk .s ≠ .cmac c u z v len) ∧
      ((∃ s t : State, exec .nop s = .next t) ∧ (∀ c, Instr.nop ≠ .subk c) ∧ ∀ c u z v len, Instr.nop ≠ .cmac c u z v len) ∧
      (∀ cont app len, Instr.subk .s ≠ .crc16 cont app len) ∧ ∀ cont app len, Instr.subk .s ≠ .crc32 cont app len := by
  refine ⟨⟨ready .s .des desKey [], _, rfl⟩, ?_⟩
  refine ⟨?_, ?_, ?_, ?_, ?_, ⟨⟨ready .s .des desKey [], _, rfl⟩, ?_, ?_⟩, ?_, ?_⟩ <;> simp

theorem witness_OnlySelectedContextChanges :
    (∃ s t : State, exec (.loadkey .x .aes) s = .next t) ∧ contextOf (.loadkey .x .aes) ≠ some .s ∧
      Instr.loadkey .x .aes ≠ .clrctx .s ∧ ∀ kt, Instr.loadkey .x .aes ≠ .loadkey .s kt :=
  ⟨⟨State.reset, _, rfl⟩, by decide, by decide, by simp⟩

theorem witness_CommandIgnoresTheBusyWindow : ∃ s t : State, exec (.cbcEnc .s true false true 5) s = .next t :=
  ⟨ready .s .des desKey [1, 2, 3, 4, 5], _, rfl⟩

theorem witness_BusyWindowIsIsolated :
    ∃ (s : State) (evs rest : List Event), s.busy = true ∧ s.agenda = evs ++ rest ∧ evs.length = 4 ∧
      ∀ e ∈ evs, (∃ a, e = .hostRead a) ∨ ∃ a v, e = .hostWrite a v ∧ ¬(a = 0x00004 ∧ v.getLsbD 0 = true) := by
  refine ⟨{ ready .s .des desKey [1] with
    agenda := [.hostRead 0x00008, .hostWrite 0x00004 6, .hostWrite 0x10000 1, .hostWrite 0x00002 1, .engine] },
    [.hostRead 0x00008, .hostWrite 0x00004 6, .hostWrite 0x10000 1, .hostWrite 0x00002 1], [.engine], rfl, rfl, rfl, ?_⟩
  intro e he
  simp only [List.mem_cons, List.not_mem_nil, or_false] at he
  rcases he with rfl | rfl | rfl | rfl
  · exact .inl ⟨_, rfl⟩
  · exact .inr ⟨_, _, rfl, by decide⟩
  · exact .inr ⟨_, _, rfl, by decide⟩
  · exact .inr ⟨_, _, rfl, by decide⟩

theorem witness_AcceptanceStartsCommand :
    ∃ s t : State, (s.agenda = [.hostWrite 0x0000C 0x00102231] ∧ s.busy = false) ∧
      (t.agenda = [.hostWrite 0x0000C 0x00102231] ∧ t.busy = true) :=
  ⟨idle .s .aes aesKey [] [.hostWrite 0x0000C 0x00102231],
    { ready .s .aes aesKey [] with agenda := [.hostWrite 0x0000C 0x00102231] }, by decide⟩

theorem witness_BusyWritesAreIgnored :
    ∃ s : State, s.busy = true ∧ s.agenda = [.hostWrite 0x203FC 1] ∧ (0x203FC : Addr).toNat % 4 = 0 ∧
      mapped s.cfg.bufBytes (0x203FC : Addr).toNat ∧ (0x203FC : Addr) ≠ 0x00004 :=
  ⟨{ ready .s .des desKey [] with agenda := [.hostWrite 0x203FC 1] }, rfl, rfl, by decide, by unfold mapped; decide,
    by decide⟩

theorem witness_BadAccessChangesNothing :
    (∃ s t : State, s.agenda = [.hostRead 0x10400] ∧ ¬((0x10400 : Addr).toNat % 4 = 0 ∧
        mapped s.cfg.bufBytes (0x10400 : Addr).toNat) ∧ t.agenda = [.hostWrite 0x00022 1] ∧
        ¬((0x00022 : Addr).toNat % 4 = 0 ∧ mapped t.cfg.bufBytes (0x00022 : Addr).toNat)) ∧
      ∃ s t : State, s.agenda = [.hostRead 0x103FC] ∧ t.agenda = [.hostWrite 0x103FC 1] ∧
        (0x103FC : Addr).toNat % 4 = 0 ∧ mapped s.cfg.bufBytes (0x103FC : Addr).toNat ∧
        mapped t.cfg.bufBytes (0x103FC : Addr).toNat :=
  ⟨⟨idle .s .des desKey [] [.hostRead 0x10400], idle .s .des desKey [] [.hostWrite 0x00022 1], rfl,
      by unfold mapped; decide, rfl, by unfold mapped; decide⟩,
    ⟨idle .s .des desKey [] [.hostRead 0x103FC], idle .s .des desKey [] [.hostWrite 0x103FC 1], rfl, rfl, by decide,
      by unfold mapped; decide, by unfold mapped; decide⟩⟩

theorem witness_ReadsHaveNoSideEffect :
    ∃ (s : State) (a : Addr), s.agenda = [.hostRead a, .hostRead a] :=
  ⟨idle .s .des desKey [1] [.hostRead 0x10000, .hostRead 0x10000], 0x10000, rfl⟩

theorem witness_ReadsShowTheElements :
    ∃ s t u v : State, s.agenda = [.hostRead (BitVec.ofNat 18 0x24)] ∧
      (t.agenda = [.hostRead (BitVec.ofNat 18 (0x40 + 20))] ∧ 20 % 4 = 0 ∧ 20 < 24) ∧
      (u.agenda = [.hostRead (BitVec.ofNat 18 (0xB0 + 12))] ∧ 12 % 4 = 0 ∧ 12 < 16) ∧
      (v.agenda = [.hostRead (BitVec.ofNat 18 (0x20000 + 1020))] ∧ 1020 % 4 = 0 ∧ 1020 < v.cfg.bufBytes) :=
  ⟨idle .s .des desKey [] [.hostRead (BitVec.ofNat 18 0x24)], idle .s .des desKey [] [.hostRead (BitVec.ofNat 18 (0x40 + 20))],
    idle .s .des desKey [] [.hostRead (BitVec.ofNat 18 (0xB0 + 12))],
    idle .s .des desKey [] [.hostRead (BitVec.ofNat 18 (0x20000 + 1020))], by decide⟩

theorem witness_ReadOnlyRegistersIgnoreWrites :
    ∃ s t : State, (s.busy = false ∧ s.agenda = [.hostWrite 0x000AC 1] ∧ (0x000AC : Addr).toNat % 4 = 0 ∧
        0x80 ≤ (0x000AC : Addr).toNat ∧ (0x000AC : Addr).toNat < 0xB0) ∧
      (t.busy = false ∧ t.agenda = [.hostWrite 0x203FC 1] ∧ (0x203FC : Addr).toNat % 4 = 0 ∧
        0x20000 ≤ (0x203FC : Addr).toNat ∧ (0x203FC : Addr).toNat < 0x20000 + t.cfg.bufBytes) :=
  ⟨idle .s .des desKey [] [.hostWrite 0x000AC 1], idle .s .des desKey [] [.hostWrite 0x203FC 1], by decide⟩

theorem witness_StatusWriteClearsFlags :
    ∃ s : State, s.busy = false ∧ s.agenda = [.hostWrite 0x00008 14] ∧ s.done = true ∧ s.err = true :=
  ⟨{ idle .s .des desKey [] [.hostWrite 0x00008 14] with done := true, err := true, errcode := 3 }, by decide⟩

theorem witness_CtrlWriteIsAlwaysHonoured :
    ∃ (s t : State) (v w : Word), (s.agenda = [.hostWrite 0x00004 v] ∧ v.getLsbD 0 = true) ∧
      (t.agenda = [.hostWrite 0x00004 w] ∧ w.getLsbD 0 = false) :=
  ⟨{ ready .s .des desKey [] with agenda := [.hostWrite 0x00004 7] },
    { ready .s .des desKey [] with agenda := [.hostWrite 0x00004 6] }, 7, 6, by decide⟩

theorem witness_ThreeWaysOfClearing :
    ∃ (s1 s2 s3 s4 s5 : State), s1.agenda = [.hostWrite 0x00004 1] ∧ (1 : Word).getLsbD 0 = true ∧ s2.agenda = [.rst] ∧
      (s3.busy = false ∧ s3.agenda = [.hostWrite 0x0000C 0x00000001, .engine]) ∧
      (s4.busy = false ∧ s4.agenda = [.hostWrite 0x0000C 0x00000101, .engine]) ∧
      (s5.busy = true ∧ s5.agenda = [.hostWrite 0x0000C 0x00000101]) :=
  ⟨idle .s .des desKey [] [.hostWrite 0x00004 1], idle .s .des desKey [] [.rst],
    idle .s .des desKey [] [.hostWrite 0x0000C 0x00000001, .engine],
    idle .s .des desKey [] [.hostWrite 0x0000C 0x00000101, .engine],
    { ready .s .des desKey [] with agenda := [.hostWrite 0x0000C 0x00000101] }, by decide⟩

theorem witness_IvWriteIsMasked :
    ∃ s t : State, (s.busy = false ∧ s.agenda = [.hostWrite (BitVec.ofNat 18 (0x60 + 12)) 1]) ∧
      (t.busy = false ∧ t.agenda = [.hostWrite (BitVec.ofNat 18 (0x70 + 12)) 1]) ∧ 12 % 4 = 0 ∧ 12 < 16 :=
  ⟨idle .s .aes aesKey [] [.hostWrite (BitVec.ofNat 18 (0x60 + 12)) 1],
    idle .x .des desKey [] [.hostWrite (BitVec.ofNat 18 (0x70 + 12)) 1], by decide⟩

theorem witness_DinWriteReadsBack :
    ∃ s : State, s.busy = false ∧ Memory.wf s.din ∧ 1020 % 4 = 0 ∧ 1020 < s.cfg.bufBytes ∧
      s.agenda = [.hostWrite (BitVec.ofNat 18 (0x10000 + 1020)) 0x00FF0001, .hostRead (BitVec.ofNat 18 (0x10000 + 1020))] :=
  ⟨idle .s .des desKey [1, 2, 3]
    [.hostWrite (BitVec.ofNat 18 (0x10000 + 1020)) 0x00FF0001, .hostRead (BitVec.ofNat 18 (0x10000 + 1020))], by decide⟩

theorem witness_KeyinAndExpectWritesStoreLanes :
    ∃ s t : State, (s.busy = false ∧ 20 % 4 = 0 ∧ 20 < 24 ∧ s.agenda = [.hostWrite (BitVec.ofNat 18 (0x40 + 20)) 5]) ∧
      (t.busy = false ∧ 12 % 4 = 0 ∧ 12 < 16 ∧ t.agenda = [.hostWrite (BitVec.ofNat 18 (0xB0 + 12)) 5]) :=
  ⟨idle .s .des desKey [] [.hostWrite (BitVec.ofNat 18 (0x40 + 20)) 5],
    idle .s .des desKey [] [.hostWrite (BitVec.ofNat 18 (0xB0 + 12)) 5], by decide⟩

theorem witness_KeysCannotBeRead :
    ∃ (s : State) (keyS keyX : Vector Byte 24), ({ s.ctxS with key := keyS } : Ctx).sdes = s.ctxS.sdes ∧
      ({ s.ctxX with key := keyX } : Ctx).sdes = s.ctxX.sdes ∧ keyS ≠ s.ctxS.key ∧ keyX ≠ s.ctxX.key :=
  ⟨ready .s .tdes2 tdesKey [], fixBytes 24 aesKey, fixBytes 24 aesKey, by decide⟩

theorem witness_EcbEncResult :
    ∃ s : State, (s.ctx .x).kv = true ∧ Memory.wf s.dout ∧ 1024 ≤ s.cfg.bufBytes ∧ 1024 % blockSize (s.ctx .x).kt = 0 :=
  ⟨ready .x .aes aesKey [1], by decide⟩

theorem witness_EcbDecResult :
    ∃ s : State, (s.ctx .s).kv = true ∧ Memory.wf s.dout ∧ 0 ≤ s.cfg.bufBytes ∧ 0 % blockSize (s.ctx .s).kt = 0 :=
  ⟨ready .s .tdes3 tdesKey [1], by decide⟩

theorem witness_CbcEncResult :
    ∃ s : State, (s.ctx .s).kv = true ∧ Memory.wf s.dout ∧ 1023 ≤ s.cfg.bufBytes ∧ 1024 ≤ s.cfg.bufBytes ∧
      1024 % blockSize (s.ctx .s).kt = 0 := ⟨ready .s .aes aesKey [1], by decide⟩

theorem witness_CbcDecResult :
    ∃ s : State, (s.ctx .x).kv = true ∧ Memory.wf s.dout ∧ 1024 ≤ s.cfg.bufBytes ∧ 1024 % blockSize (s.ctx .x).kt = 0 :=
  ⟨ready .x .tdes2 tdesKey [1], by decide⟩

theorem witness_CbcMacResult :
    ∃ s : State, (s.ctx .s).kv = true ∧ 0 < 1 ∧ 1 ≤ s.cfg.bufBytes ∧ 1024 ≤ s.cfg.bufBytes ∧
      1024 % blockSize (s.ctx .s).kt = 0 := ⟨ready .s .aes aesKey [1], by decide⟩

theorem witness_SubkResult : ∃ s : State, (s.ctx .s).kv = true := ⟨ready .s .aes aesKey [], by decide⟩

/-- Section 3.5: the MAC of `01 .. 08` under the DES key is `22 CB 16 3E 20 41 F6 31`. -/
theorem witness_CmacResult :
    ∃ s : State, (s.ctx .s).kv = true ∧ 0 < 8 ∧ 8 ≤ s.cfg.bufBytes ∧ s.computedMac .s true 8 = s.expect.toList.take 8 :=
  ⟨{ ready .s .des desKey [1, 2, 3, 4, 5, 6, 7, 8] with
    expect := fixBytes 16 [0x22, 0xCB, 0x16, 0x3E, 0x20, 0x41, 0xF6, 0x31] }, by decide +kernel⟩

theorem witness_IntegrityFailureKeepsWrites :
    ∃ s t : State, ((s.ctx .s).kv = true ∧ 0 < 8 ∧ 8 ≤ s.cfg.bufBytes ∧
      s.computedMac .s true 8 ≠ s.expect.toList.take 8) ∧ exec (.cmac .s true true false 8) s = .next t :=
  ⟨ready .s .des desKey [1, 2, 3, 4, 5, 6, 7, 8], _, by decide +kernel, rfl⟩

theorem witness_Crc16Result : ∃ s : State, Memory.wf s.din ∧ 1022 ≤ s.cfg.bufBytes ∧ 1022 + 2 ≤ s.cfg.bufBytes :=
  ⟨ready .s .des desKey [1, 2], by decide⟩

theorem witness_Crc32Result : ∃ s : State, Memory.wf s.din ∧ 1020 ≤ s.cfg.bufBytes ∧ 1020 + 4 ≤ s.cfg.bufBytes :=
  ⟨ready .s .des desKey [1, 2], by decide⟩

/-- Section 3.8: a word with bit 15 set, no key, a length that is no multiple of the block, a wrong MAC, and none of it. -/
theorem witness_ErrorsHaveExactlyTheirCauses :
    ∃ s1 s2 s3 s4 s5 : State,
      (∀ s, s = s1 ∨ s = s2 ∨ s = s3 ∨ s = s4 ∨ s = s5 →
        s.busy = true ∧ s.agenda = [.engine] ∧ s.err = false ∧ s.errcode = 0) ∧
      decode s1.cmdCur = .error .reservedBit ∧
      (decode s2.cmdCur = .ok (.ecbEnc .x 7) ∧ stateCause (.ecbEnc .x 7) s2) ∧
      (decode s3.cmdCur = .ok (.ecbEnc .s 7) ∧ ¬stateCause (.ecbEnc .s 7) s3 ∧ lengthCause (.ecbEnc .s 7) s3) ∧
      (decode s4.cmdCur = .ok (.cmac .s false true true 8) ∧ ¬stateCause (.cmac .s false true true 8) s4 ∧
        ¬lengthCause (.cmac .s false true true 8) s4 ∧ integrityCause (.cmac .s false true true 8) s4) ∧
      (decode s5.cmdCur = .ok (.ecbEnc .s 8) ∧ ¬stateCause (.ecbEnc .s 8) s5 ∧ ¬lengthCause (.ecbEnc .s 8) s5 ∧
        ¬integrityCause (.ecbEnc .s 8) s5) := by
  let r : Word → State := fun cw =>
    { ready .s .des desKey [1, 2, 3, 4, 5, 6, 7, 8] with cmdCur := cw, agenda := [.engine] }
  refine ⟨r 0x00078010, r 0x00070110, r 0x00070010, r 0x00082431, r 0x00080010, ?_, by decide, ?_, ?_, ?_, ?_⟩
  · rintro s (rfl | rfl | rfl | rfl | rfl) <;> exact ⟨rfl, rfl, rfl, rfl⟩
  · unfold stateCause; decide
  · unfold stateCause lengthCause; decide
  · unfold stateCause lengthCause integrityCause; decide +kernel
  · unfold stateCause lengthCause integrityCause; decide

theorem witness_FailedChecksWriteNothing :
    ∃ s t : State, s.busy = true ∧ s.agenda = [.engine] ∧ s.err = false ∧ s.errcode = 0 ∧ step s = .next t ∧
      t.errcode = 0x02 :=
  ⟨{ ready .s .des desKey [1] with cmdCur := 0x00070110, agenda := [.engine] }, _, rfl, rfl, rfl, rfl, rfl, by decide⟩

theorem witness_BlockFunctionsInvert : aesKey.length = blockSize .aes ∧ desKey.length = blockSize .tdes2 := by decide

theorem witness_ParityBitsAreIgnored :
    ∃ (k l : Bytes) (v w : Vector Byte 24), (k.length = 8 ∧ l.length = 8 ∧ k ≠ l ∧
        ∀ i, k.getD i 0 &&& 0xFE = l.getD i 0 &&& 0xFE) ∧
      (KeyType.tdes3 ≠ .aes ∧ v ≠ w ∧ ∀ i, v.getD i 0 &&& 0xFE = w.getD i 0 &&& 0xFE) := by
  refine ⟨[0, 0, 0, 0, 0, 0, 0, 0], [1, 0, 0, 0, 0, 0, 0, 0], fixBytes 24 [], fixBytes 24 [1], ⟨rfl, rfl, by decide, ?_⟩,
    by decide, by decide, ?_⟩
  · intro i
    cases i <;> rfl
  · intro i
    simp only [fixBytes_getD]
    cases i <;> simp

theorem witness_EqualHalvesGiveSingleDes :
    desKey.length = 8 ∧ ∀ k, k < 8 → (fixBytes 24 (desKey ++ desKey)).getD k 0 =
      (fixBytes 24 (desKey ++ desKey)).getD (k + 8) 0 := by decide

theorem witness_DoublingIsOneShiftOfANumber : (zeros 16).length = blockSize .aes ∧ desKey.length = blockSize .des := by decide

theorem witness_CmacPaddingChoosesSubkey :
    0 < 8 ∧ 0 < ([1] : Bytes).length ∧ 0 < tdesKey.length ∧ desKey.length = 8 ∧ (zeros 8).length = 8 := by decide

theorem witness_CbcEncryptionChains :
    (zeros 8).length = blockSize .des ∧ tdesKey.length % blockSize .des = 0 ∧ ([] : Bytes).length % blockSize .des = 0 := by
  decide

theorem witness_CbcDecryptionUndoesEncryption :
    (zeros 16).length = blockSize .aes ∧ (aesKey ++ aesKey).length % blockSize .aes = 0 := by decide

theorem witness_ChainsFragment :
    aesKey.length % blockSize .aes = 0 ∧ (aesKey ++ aesKey).length % blockSize .aes = 0 := by decide

theorem witness_SenderAndReceiverStayInStep :
    ∃ s t : State, s.Inv ∧ s.ctxS.kv = true ∧ s.ctxX = s.ctxS ∧ 1023 ≤ s.cfg.bufBytes ∧
      exec (.cbcEnc .s true false true 1023) s = .next t ∧ 1024 % blockSize s.ctxS.kt = 0 :=
  ⟨_, _, ready_inv, rfl, rfl, by decide, rfl, by decide⟩

theorem witness_FragmentedTransferIsOneTransfer :
    ∃ (s t u w : State) (next whole : Memory), s.Inv ∧ (s.ctx .s).kv = true ∧ 8 % blockSize (s.ctx .s).kt = 0 ∧
      8 + 8 ≤ s.cfg.bufBytes ∧ (∀ k, k < 8 → Memory.read whole k = Memory.read s.din k) ∧
      (∀ k, k < 8 → Memory.read whole (8 + k) = Memory.read next k) ∧
      exec (.cbcEnc .s true false false 8) s = .next t ∧
      exec (.cbcEnc .s true false false 8) { t with din := next } = .next u ∧
      exec (.cbcEnc .s true false false (8 + 8)) { s with din := whole } = .next w :=
  ⟨_, _, _, _, [(0, 5)], [(0, 1), (1, 2), (8, 5)], ready_inv, rfl, by decide, by decide, by decide, by decide, rfl, rfl, rfl⟩

theorem witness_CrcResidues :
    ∃ s t u : State, s.errcode = 0 ∧ exec (.crc16 true true 3) s = .next t ∧ exec (.crc32 false true 1022) s = .next u :=
  ⟨State.reset, _, _, rfl, rfl, rfl⟩

end Sys2Proof.Tests
end

section
/-! PROOFS. The completion of a command said once for all twelve (R111, R221 to R224): what is checked before it runs,
what it writes, whether its verification fails, and how it ends. Everything a command keeps follows from what its
writes keep. -/

namespace Sys2Proof.Machine

/-! ### The three parts of a command -/

/-- R221, R222: the checks a command makes before it writes anything. -/
def preChecks (i : Instr) (s : State) : Option ErrKind :=
  match i with
  | .nop => none
  | .clrctx _ => none
  | .loadkey _ _ => none
  | .ecbEnc c len => s.checkKeyed c len (s.ragged c len)
  | .ecbDec c len => s.checkKeyed c len (s.ragged c len)
  | .cbcEnc c _ _ pad len => s.checkKeyed c len (!pad && s.ragged c len)
  | .cbcDec c _ _ len => s.checkKeyed c len (s.ragged c len)
  | .cbcMac c _ _ pad len => s.checkKeyed c len (decide (len = 0) || (!pad && s.ragged c len))
  | .subk c => s.checkKey c
  | .cmac c _ _ _ len => s.checkKeyed c len (decide (len = 0))
  | .crc16 _ app len => s.checkCrc len 2 app
  | .crc32 _ app len => s.checkCrc len 4 app

/-- R29: `MAC` and `MACLEN` written together. -/
def State.setMac (s : State) (mac : Bytes) (n : BitVec 5) : State := { s with mac := fixBytes 16 mac, maclen := n }

/-- R112 to R114, R142, R143, R165 to R167, R187, R188, R207, R208: the writes of a command whose checks pass, without
the status flags. -/
def commandWrites (i : Instr) (s : State) : State :=
  match i with
  | .nop => s
  | .clrctx .s => (s.setCtx .s Ctx.clear).clearSession
  | .clrctx .x => s.setCtx .x Ctx.clear
  | .loadkey c kt => { s.setCtx c (loadedCtx kt s.keyin) with keyin := Vector.replicate 24 0 }
  | .ecbEnc c len => s.output (ecbEncBytes (s.ctx c).kt (s.ctx c).key (s.input len))
  | .ecbDec c len => s.output (ecbDecBytes (s.ctx c).kt (s.ctx c).key (s.input len))
  | .cbcEnc c uiv ziv pad len =>
    (s.output (s.cbcEncChain c ziv pad len).1).writeBackIv c uiv (s.message c pad len).length
      (s.cbcEncChain c ziv pad len).2
  | .cbcDec c uiv ziv len =>
    (s.output (s.cbcDecChain c ziv len).1).writeBackIv c uiv len (s.cbcDecChain c ziv len).2
  | .cbcMac c uiv ziv pad len =>
    (s.setMac (s.cbcEncChain c ziv pad len).2 (BitVec.ofNat 5 (blockSize (s.ctx c).kt))).writeBackIv c uiv len
      (s.cbcEncChain c ziv pad len).2
  | .subk c => s.setSubkeys (subkeys (s.ctx c).kt (s.ctx c).key)
  | .cmac c uiv ziv _ len => s.cmacWrites c uiv ziv len
  | .crc16 cont app len =>
    State.appendCrc { s with crc16Acc := s.crc16Of cont len } app len (leBytes 2 (s.crc16Of cont len))
  | .crc32 cont app len =>
    State.appendCrc { s with crc32Acc := s.crc32Of cont len } app len (leBytes 4 (crc32Final (s.crc32Of cont len)))

/-- R189: whether a command asks for a verification that fails. -/
def verifyFails (i : Instr) (s : State) : Bool :=
  match i with
  | .cmac c uiv ziv vfy len => vfy && !(s.cmacWrites c uiv ziv len).macMatches
  | _ => false

/-- R111, R223, R224: the completion of every command, from its three parts. -/
theorem exec_eq (i : Instr) (s : State) :
    exec i s = .next (s.checked (preChecks i s) fun s =>
      if verifyFails i s then (commandWrites i s).raise .integrity else (commandWrites i s).finish) := by
  cases i with
  | clrctx c => cases c <;> rfl
  | _ => rfl

/-- Everything the completion of a command can be: a check fails and only the error is recorded, or the checks pass and
the writes stand, with the flags of a completion with or without error. -/
theorem exec_cases {i : Instr} {s t : State} (h : exec i s = .next t) :
    (∃ e, t = s.raise e) ∨
      (preChecks i s = none ∧ (t = (commandWrites i s).finish ∨ ∃ e, t = (commandWrites i s).raise e)) := by
  rw [exec_eq] at h
  obtain ⟨e, -, hr⟩ | ⟨hc, hr⟩ := State.checked_cases s (preChecks i s) _ <;> rw [hr] at h
  · cases h
    exact .inl ⟨e, rfl⟩
  · split at h <;> cases h
    · exact .inr ⟨hc, .inr ⟨_, rfl⟩⟩
    · exact .inr ⟨hc, .inl rfl⟩

/-- A command whose checks pass and whose verification does not fail completes without error. -/
theorem exec_of_passes {i : Instr} {s : State} (hc : preChecks i s = none) (hv : verifyFails i s = false) :
    exec i s = .next (commandWrites i s).finish := by
  rw [exec_eq, hc, State.checked_none, hv, if_neg Bool.false_ne_true]

/-- What neither the status flags nor a command's writes change, the command keeps. -/
theorem exec_keeps {α : Type} (f : State → α) {i : Instr} {s t : State} (h : exec i s = .next t)
    (hw : preChecks i s = none → f (commandWrites i s) = f s)
    (hf : ∀ u : State, f u.finish = f u := by intros; rfl)
    (hr : ∀ (e : ErrKind) (u : State), f (u.raise e) = f u := by intros; rfl) : f t = f s := by
  obtain ⟨e, rfl⟩ | ⟨hc, rfl | ⟨e, rfl⟩⟩ := exec_cases h
  · exact hr e s
  · rw [hf, hw hc]
  · rw [hr, hw hc]

/-! ### The writes of CMAC and the appended CRC as single updates -/

/-- R188: the writes of CMAC, one after the other. -/
theorem State.cmacWrites_eq (s : State) (c : CtxSel) (uiv ziv : Bool) (len : Nat) :
    s.cmacWrites c uiv ziv len =
      ((s.setSubkeys (s.cmacChain c ziv len).2).setMac (macOf (s.ctx c).kt (s.cmacChain c ziv len).1) 8).writeBackIv
        c uiv len (s.cmacChain c ziv len).1 := rfl

/-- R207, R208: appending changes nothing but DIN. -/
theorem State.appendCrc_eq (s : State) (app : Bool) (len : Nat) (b : Bytes) :
    s.appendCrc app len b = { s with din := if app then Memory.writeBytes s.din len b else s.din } := by
  cases app <;> rfl

/-! ### The elements a command's writes leave alone (R20) -/

section
variable {i : Instr} (s : State)

/-- The elements that belong to the host or stand beside the CEB. -/
theorem commandWrites_host (i : Instr) :
    (commandWrites i s).cmdCur = s.cmdCur ∧ (commandWrites i s).ieDone = s.ieDone ∧
      (commandWrites i s).ieErr = s.ieErr ∧ (commandWrites i s).wib = s.wib ∧ (commandWrites i s).cfg = s.cfg ∧
      (commandWrites i s).agenda = s.agenda ∧ (commandWrites i s).replies = s.replies := by
  cases i with
  | clrctx c => cases c <;> simp [commandWrites]
  | _ => simp [commandWrites, State.cmacWrites_eq, State.setMac, State.appendCrc_eq]

/-- The error record, which only the end of a command writes (R111). -/
theorem commandWrites_err (i : Instr) :
    (commandWrites i s).err = s.err ∧ (commandWrites i s).errcode = s.errcode := by
  cases i with
  | clrctx c => cases c <;> simp [commandWrites]
  | _ => simp [commandWrites, State.cmacWrites_eq, State.setMac, State.appendCrc_eq]

theorem commandWrites_expect (hs : i ≠ .clrctx .s) : (commandWrites i s).expect = s.expect := by
  cases i with
  | clrctx c => cases c <;> simp_all [commandWrites]
  | _ => simp [commandWrites, State.cmacWrites_eq, State.setMac, State.appendCrc_eq]

theorem commandWrites_keyin (hs : i ≠ .clrctx .s) (hl : ∀ c kt, i ≠ .loadkey c kt) :
    (commandWrites i s).keyin = s.keyin := by
  cases i with
  | clrctx c => cases c <;> simp_all [commandWrites]
  | loadkey c kt => exact absurd rfl (hl c kt)
  | _ => simp [commandWrites, State.cmacWrites_eq, State.setMac, State.appendCrc_eq]

theorem commandWrites_din (hs : i ≠ .clrctx .s)
    (ha : ∀ cont len, i ≠ .crc16 cont true len ∧ i ≠ .crc32 cont true len) : (commandWrites i s).din = s.din := by
  cases i with
  | clrctx c => cases c <;> simp_all [commandWrites]
  | crc16 cont app len =>
    cases app with
    | false => rfl
    | true => exact absurd rfl (ha cont len).1
  | crc32 cont app len =>
    cases app with
    | false => rfl
    | true => exact absurd rfl (ha cont len).2
  | _ => simp [commandWrites, State.cmacWrites_eq, State.setMac]

theorem commandWrites_output (hs : i ≠ .clrctx .s) (he : ∀ c len, i ≠ .ecbEnc c len ∧ i ≠ .ecbDec c len)
    (hc : ∀ c u z p len, i ≠ .cbcEnc c u z p len) (hd : ∀ c u z len, i ≠ .cbcDec c u z len) :
    (commandWrites i s).dout = s.dout ∧ (commandWrites i s).outlen = s.outlen := by
  cases i with
  | clrctx c => cases c <;> simp_all [commandWrites]
  | ecbEnc c len => exact absurd rfl (he c len).1
  | ecbDec c len => exact absurd rfl (he c len).2
  | cbcEnc c u z p len => exact absurd rfl (hc c u z p len)
  | cbcDec c u z len => exact absurd rfl (hd c u z len)
  | _ => simp [commandWrites, State.cmacWrites_eq, State.setMac, State.appendCrc_eq]

theorem commandWrites_mac (hs : i ≠ .clrctx .s) (hb : ∀ c u z p len, i ≠ .cbcMac c u z p len)
    (hm : ∀ c u z v len, i ≠ .cmac c u z v len) :
    (commandWrites i s).mac = s.mac ∧ (commandWrites i s).maclen = s.maclen := by
  cases i with
  | clrctx c => cases c <;> simp_all [commandWrites]
  | cbcMac c u z p len => exact absurd rfl (hb c u z p len)
  | cmac c u z v len => exact absurd rfl (hm c u z v len)
  | _ => simp [commandWrites, State.appendCrc_eq]

theorem commandWrites_subkeys (hs : i ≠ .clrctx .s) (hk : ∀ c, i ≠ .subk c)
    (hm : ∀ c u z v len, i ≠ .cmac c u z v len) :
    (commandWrites i s).k1 = s.k1 ∧ (commandWrites i s).k2 = s.k2 := by
  cases i with
  | clrctx c => cases c <;> simp_all [commandWrites]
  | subk c => exact absurd rfl (hk c)
  | cmac c u z v len => exact absurd rfl (hm c u z v len)
  | _ => simp [commandWrites, State.setMac, State.appendCrc_eq]

theorem commandWrites_crc16Acc (hs : i ≠ .clrctx .s) (hc : ∀ cont app len, i ≠ .crc16 cont app len) :
    (commandWrites i s).crc16Acc = s.crc16Acc := by
  cases i with
  | clrctx c => cases c <;> simp_all [commandWrites]
  | crc16 cont app len => exact absurd rfl (hc cont app len)
  | _ => simp [commandWrites, State.cmacWrites_eq, State.setMac, State.appendCrc_eq]

theorem commandWrites_crc32Acc (hs : i ≠ .clrctx .s) (hc : ∀ cont app len, i ≠ .crc32 cont app len) :
    (commandWrites i s).crc32Acc = s.crc32Acc := by
  cases i with
  | clrctx c => cases c <;> simp_all [commandWrites]
  | crc32 cont app len => exact absurd rfl (hc cont app len)
  | _ => simp [commandWrites, State.cmacWrites_eq, State.setMac, State.appendCrc_eq]

end


/-! ### The contexts after a command's writes (R23, R24, R164) -/

theorem blockSize_le (kt : KeyType) : blockSize kt ≤ 16 := by cases kt <;> decide

/-- R160: the starting chaining value is one block. -/
@[simp] theorem State.startIv_length (s : State) (c : CtxSel) (ziv : Bool) :
    (s.startIv c ziv).length = blockSize (s.ctx c).kt := by
  have := blockSize_le (s.ctx c).kt
  cases ziv <;> simp [State.startIv, this]

/-- The last of a list of blocks, or the block given for none, has the block size. -/
theorem length_getLastD {n : Nat} {bs : List Bytes} {b : Bytes} (hb : b.length = n) (h : ∀ x ∈ bs, x.length = n) :
    (bs.getLastD b).length = n := by
  rcases List.mem_cons.mp (List.getLastD_mem_cons (l := bs) (a := b)) with e | hm
  · rw [e, hb]
  · exact h _ hm

/-- R161: what a CBC encryption hands on is one block. -/
theorem cbcEnc_last_length {kt : KeyType} (key : Vector Byte 24) {iv0 : Bytes} (m : Bytes)
    (h : iv0.length = blockSize kt) : (cbcEnc kt key iv0 m).2.length = blockSize kt :=
  length_getLastD h fun _ => length_of_mem_cbcEncBlocks

/-- R162: what a CBC decryption hands on is one block. -/
theorem cbcDec_last_length {kt : KeyType} (key : Vector Byte 24) {iv0 : Bytes} (m : Bytes)
    (h : iv0.length = blockSize kt) : (cbcDec kt key iv0 m).2.length = blockSize kt :=
  length_getLastD h fun _ => length_of_mem_blocks

theorem State.cbcEncChain_last_length (s : State) (c : CtxSel) (ziv pad : Bool) (len : Nat) :
    (s.cbcEncChain c ziv pad len).2.length = blockSize (s.ctx c).kt :=
  cbcEnc_last_length _ _ (s.startIv_length c ziv)

theorem State.cbcDecChain_last_length (s : State) (c : CtxSel) (ziv : Bool) (len : Nat) :
    (s.cbcDecChain c ziv len).2.length = blockSize (s.ctx c).kt :=
  cbcDec_last_length _ _ (s.startIv_length c ziv)

theorem State.cmacChain_last_length (s : State) (c : CtxSel) (ziv : Bool) (len : Nat) :
    (s.cmacChain c ziv len).1.length = blockSize (s.ctx c).kt :=
  cbcEnc_last_length _ _ (s.startIv_length c ziv)

@[simp] theorem State.setMac_ctx (s : State) (mac : Bytes) (n : BitVec 5) (d : CtxSel) :
    (s.setMac mac n).ctx d = s.ctx d := by cases d <;> simp [State.ctx, State.setMac]

/-- R164: a write-back of a block leaves a context as it is, or gives the selected one a new IV of one block. -/
theorem State.writeBackIv_ctx_cases {s u : State} {c : CtxSel} {l : Bytes} (d : CtxSel) (hkv : (s.ctx c).kv = true)
    (hu : u.ctx d = s.ctx d) (hl : l.length = blockSize (s.ctx c).kt) (uiv : Bool) (n : Nat) :
    (u.writeBackIv c uiv n l).ctx d = s.ctx d ∨
      (some c = some d ∧ (s.ctx d).kv = true ∧ ∃ last, last.length = blockSize (s.ctx d).kt ∧
        (u.writeBackIv c uiv n l).ctx d = { s.ctx d with iv := fixBytes 16 last }) := by
  rw [State.writeBackIv_ctx, hu]
  split
  · next h =>
    obtain ⟨rfl, -, -⟩ := h
    exact .inr ⟨rfl, hkv, l, hl, rfl⟩
  · exact .inl rfl

theorem clrctxWrites_ctx (s : State) (c d : CtxSel) :
    (commandWrites (.clrctx c) s).ctx d = if c = d then Ctx.clear else s.ctx d := by cases c <;> cases d <;> rfl

theorem loadkeyWrites_ctx (s : State) (c d : CtxSel) (kt : KeyType) :
    (commandWrites (.loadkey c kt) s).ctx d = if c = d then loadedCtx kt s.keyin else s.ctx d := by
  cases c <;> cases d <;> rfl

/-- What the writes of a command whose checks passed can do to a context: nothing, clear it, load it, or hand it a new
IV of one block, and that only to the selected context while it holds a key. -/
theorem commandWrites_ctx_cases {i : Instr} {s : State} (hc : preChecks i s = none) (d : CtxSel) :
    (commandWrites i s).ctx d = s.ctx d ∨
    (i = .clrctx d ∧ (commandWrites i s).ctx d = Ctx.clear) ∨
    (∃ kt, i = .loadkey d kt ∧ (commandWrites i s).ctx d = loadedCtx kt s.keyin) ∨
    (contextOf i = some d ∧ (s.ctx d).kv = true ∧ ∃ last, last.length = blockSize (s.ctx d).kt ∧
      (commandWrites i s).ctx d = { s.ctx d with iv := fixBytes 16 last }) := by
  cases i with
  | clrctx c =>
    rw [clrctxWrites_ctx]
    split
    · next h => exact .inr (.inl ⟨by rw [h], rfl⟩)
    · exact .inl rfl
  | loadkey c kt =>
    rw [loadkeyWrites_ctx]
    split
    · next h => exact .inr (.inr (.inl ⟨kt, by rw [h], rfl⟩))
    · exact .inl rfl
  | cbcEnc c uiv ziv pad len =>
    exact (State.writeBackIv_ctx_cases d (State.checkKeyed_none.mp hc).1 (State.output_ctx ..)
      (s.cbcEncChain_last_length c ziv pad len) uiv _).imp_right fun h => .inr (.inr h)
  | cbcDec c uiv ziv len =>
    exact (State.writeBackIv_ctx_cases d (State.checkKeyed_none.mp hc).1 (State.output_ctx ..)
      (s.cbcDecChain_last_length c ziv len) uiv len).imp_right fun h => .inr (.inr h)
  | cbcMac c uiv ziv pad len =>
    exact (State.writeBackIv_ctx_cases d (State.checkKeyed_none.mp hc).1 (State.setMac_ctx ..)
      (s.cbcEncChain_last_length c ziv pad len) uiv len).imp_right fun h => .inr (.inr h)
  | cmac c uiv ziv vfy len =>
    exact (State.writeBackIv_ctx_cases d (State.checkKeyed_none.mp hc).1
      ((State.setMac_ctx ..).trans (State.setSubkeys_ctx ..)) (s.cmacChain_last_length c ziv len) uiv len).imp_right
        fun h => .inr (.inr h)
  | crc16 cont app len => exact .inl (by cases app <;> rfl)
  | crc32 cont app len => exact .inl (by cases app <;> rfl)
  | ecbEnc c len => exact .inl (State.output_ctx ..)
  | ecbDec c len => exact .inl (State.output_ctx ..)
  | subk c => exact .inl (State.setSubkeys_ctx ..)
  | nop => exact .inl rfl

/-! ### The elements of the busy window (R43, R64) -/

/-- A state with other values of what the host can change in the busy window, and of what stands beside the CEB. -/
def State.inWindow (s : State) (w d e : Bool) (ag : List Event) (rs : List Reply) : State :=
  { s with wib := w, ieDone := d, ieErr := e, agenda := ag, replies := rs }

section
variable (s : State) (w d e : Bool) (ag : List Event) (rs : List Reply)

theorem preChecks_inWindow (i : Instr) : preChecks i (s.inWindow w d e ag rs) = preChecks i s := by
  cases i <;> rfl

@[simp] theorem State.inWindow_ctx (c : CtxSel) : (s.inWindow w d e ag rs).ctx c = s.ctx c := by cases c <;> rfl

@[simp] theorem State.inWindow_input (len : Nat) : (s.inWindow w d e ag rs).input len = s.input len := rfl

@[simp] theorem State.inWindow_cbcEncChain (c : CtxSel) (z p : Bool) (len : Nat) :
    (s.inWindow w d e ag rs).cbcEncChain c z p len = s.cbcEncChain c z p len := by
  simp [State.cbcEncChain, State.startIv, State.message]

@[simp] theorem State.inWindow_cbcDecChain (c : CtxSel) (z : Bool) (len : Nat) :
    (s.inWindow w d e ag rs).cbcDecChain c z len = s.cbcDecChain c z len := by
  simp [State.cbcDecChain, State.startIv]

@[simp] theorem State.inWindow_cmacChain (c : CtxSel) (z : Bool) (len : Nat) :
    (s.inWindow w d e ag rs).cmacChain c z len = s.cmacChain c z len := by
  simp [State.cmacChain, State.startIv]

theorem State.inWindow_output (b : Bytes) :
    (s.inWindow w d e ag rs).output b = (s.output b).inWindow w d e ag rs := rfl

theorem State.inWindow_setSubkeys (ks : Bytes × Bytes) :
    (s.inWindow w d e ag rs).setSubkeys ks = (s.setSubkeys ks).inWindow w d e ag rs := rfl

theorem State.inWindow_setMac (mac : Bytes) (n : BitVec 5) :
    (s.inWindow w d e ag rs).setMac mac n = (s.setMac mac n).inWindow w d e ag rs := rfl

theorem State.inWindow_writeBackIv (c : CtxSel) (u : Bool) (n : Nat) (l : Bytes) :
    (s.inWindow w d e ag rs).writeBackIv c u n l = (s.writeBackIv c u n l).inWindow w d e ag rs := by
  unfold State.writeBackIv
  split
  · cases c <;> rfl
  · rfl

theorem State.inWindow_cmacWrites (c : CtxSel) (u z : Bool) (len : Nat) :
    (s.inWindow w d e ag rs).cmacWrites c u z len = (s.cmacWrites c u z len).inWindow w d e ag rs := by
  simp only [State.cmacWrites_eq, State.inWindow_cmacChain, State.inWindow_ctx, State.inWindow_setSubkeys,
    State.inWindow_setMac, State.inWindow_writeBackIv]

theorem verifyFails_inWindow (i : Instr) : verifyFails i (s.inWindow w d e ag rs) = verifyFails i s := by
  cases i with
  | cmac c u z v len => rw [verifyFails, State.inWindow_cmacWrites]; rfl
  | _ => rfl

/-- R258: the writes of a command take nothing from the busy window's elements and leave them as they are. -/
theorem commandWrites_inWindow (i : Instr) :
    commandWrites i (s.inWindow w d e ag rs) = (commandWrites i s).inWindow w d e ag rs := by
  cases i with
  | nop => rfl
  | clrctx c => cases c <;> rfl
  | loadkey c kt => cases c <;> rfl
  | ecbEnc c len => simp only [commandWrites, State.inWindow_ctx, State.inWindow_input, State.inWindow_output]
  | ecbDec c len => simp only [commandWrites, State.inWindow_ctx, State.inWindow_input, State.inWindow_output]
  | cbcEnc c u z p len =>
    simp only [commandWrites, State.inWindow_cbcEncChain, State.inWindow_output, State.inWindow_writeBackIv,
      State.message, State.inWindow_ctx, State.inWindow_input]
  | cbcDec c u z len =>
    simp only [commandWrites, State.inWindow_cbcDecChain, State.inWindow_output, State.inWindow_writeBackIv]
  | cbcMac c u z p len =>
    simp only [commandWrites, State.inWindow_cbcEncChain, State.inWindow_ctx, State.inWindow_setMac,
      State.inWindow_writeBackIv]
  | subk c => simp only [commandWrites, State.inWindow_ctx, State.inWindow_setSubkeys]
  | cmac c u z v len => exact State.inWindow_cmacWrites s w d e ag rs c u z len
  | crc16 cont app len => cases app <;> rfl
  | crc32 cont app len => cases app <;> rfl

end

/-- The completion of a command commutes with a change of the busy window's elements. -/
theorem exec_inWindow {i : Instr} {s t : State} (w d e : Bool) (ag : List Event) (rs : List Reply)
    (h : exec i s = .next t) : exec i (s.inWindow w d e ag rs) = .next (t.inWindow w d e ag rs) := by
  rw [exec_eq] at h ⊢
  rw [preChecks_inWindow]
  cases hc : preChecks i s with
  | some k =>
    rw [hc] at h
    cases h
    rfl
  | none =>
    rw [hc] at h
    rw [State.checked_none] at h ⊢
    rw [verifyFails_inWindow, commandWrites_inWindow]
    cases h
    split <;> rfl

end Sys2Proof.Machine
end

section
/-! PROOFS. What commands write and keep: the obligations on elements, contexts and the busy window. -/

namespace Sys2Proof.Machine

/-- Settles O11: each element is kept because the command's writes keep it and the status flags do not touch it. -/
theorem commandsWriteOnlyTheirElements : Obligations.CommandsWriteOnlyTheirElements := by
  intro i s t h
  refine ⟨?_, fun hs => ⟨?_, fun hl => ?_, fun ha => ?_, fun he hc hd => ⟨?_, ?_⟩, fun hb hm => ⟨?_, ?_⟩,
    fun hk hm => ⟨?_, ?_⟩, fun hc => ?_, fun hc => ?_⟩⟩
  · obtain ⟨hcmd, hdone, herr, hwib, hcfg, hag, hrep⟩ := commandWrites_host s i
    exact ⟨exec_keeps (·.cmdCur) h fun _ => hcmd, exec_keeps (·.ieDone) h fun _ => hdone,
      exec_keeps (·.ieErr) h fun _ => herr, exec_keeps (·.wib) h fun _ => hwib, exec_keeps (·.cfg) h fun _ => hcfg,
      exec_keeps (·.agenda) h fun _ => hag, exec_keeps (·.replies) h fun _ => hrep⟩
  · exact exec_keeps (·.expect) h fun _ => commandWrites_expect s hs
  · exact exec_keeps (·.keyin) h fun _ => commandWrites_keyin s hs hl
  · exact exec_keeps (·.din) h fun _ => commandWrites_din s hs ha
  · exact exec_keeps (·.dout) h fun _ => (commandWrites_output s hs he hc hd).1
  · exact exec_keeps (·.outlen) h fun _ => (commandWrites_output s hs he hc hd).2
  · exact exec_keeps (·.mac) h fun _ => (commandWrites_mac s hs hb hm).1
  · exact exec_keeps (·.maclen) h fun _ => (commandWrites_mac s hs hb hm).2
  · exact exec_keeps (·.k1) h fun _ => (commandWrites_subkeys s hs hk hm).1
  · exact exec_keeps (·.k2) h fun _ => (commandWrites_subkeys s hs hk hm).2
  · exact exec_keeps (·.crc16Acc) h fun _ => commandWrites_crc16Acc s hs hc
  · exact exec_keeps (·.crc32Acc) h fun _ => commandWrites_crc32Acc s hs hc

/-- Settles O12, from the four things a command can do to a context. -/
theorem onlySelectedContextChanges : Obligations.OnlySelectedContextChanges := by
  intro i s t h
  refine ⟨fun d hd => exec_keeps (·.ctx d) h fun hc => ?_, fun d hclr hload => ?_⟩
  · rcases commandWrites_ctx_cases hc d with hk | ⟨rfl, -⟩ | ⟨kt, rfl, -⟩ | ⟨hsel, -⟩
    · exact hk
    · exact absurd rfl hd
    · exact absurd rfl hd
    · exact absurd hsel hd
  · have key := exec_keeps (fun u => ((u.ctx d).kv, (u.ctx d).kt, (u.ctx d).key)) h fun hc => by
      rcases commandWrites_ctx_cases hc d with hk | ⟨rfl, -⟩ | ⟨kt, rfl, -⟩ | ⟨-, -, last, -, hk⟩
      · rw [hk]
      · exact absurd rfl hclr
      · exact absurd rfl (hload kt)
      · rw [hk]
    simpa only [Prod.mk.injEq] using key

/-- Settles O13. -/
theorem commandIgnoresTheBusyWindow : Obligations.CommandIgnoresTheBusyWindow :=
  fun _ _ _ w d e ag rs h => exec_inWindow w d e ag rs h

end Sys2Proof.Machine
end

section
/-! PROOFS. The lengths of what a command writes (R142, R143, R163 to R166), which keep the buffers inside
`BUF_BYTES`. -/

namespace Sys2Proof.Machine

/-- Blocks of one size put end to end. -/
theorem flatten_length_of_uniform {n : Nat} {bs : List Bytes} (h : ∀ b ∈ bs, b.length = n) :
    bs.flatten.length = bs.length * n := by
  rw [List.length_flatten, List.map_congr_left h, List.map_const', List.sum_replicate, smul_eq_mul]

theorem ecbEncBytes_length (kt : KeyType) (key : Vector Byte 24) (m : Bytes) :
    (ecbEncBytes kt key m).length = m.length / blockSize kt * blockSize kt := by
  rw [ecbEncBytes, flatten_length_of_uniform (n := blockSize kt) (by simp), List.length_map, blocks_length]

theorem ecbDecBytes_length (kt : KeyType) (key : Vector Byte 24) (m : Bytes) :
    (ecbDecBytes kt key m).length = m.length / blockSize kt * blockSize kt := by
  rw [ecbDecBytes, flatten_length_of_uniform (n := blockSize kt) (by simp), List.length_map, blocks_length]

/-- R161: the ciphertext is as long as the whole blocks of the message. -/
theorem cbcEnc_bytes_length (kt : KeyType) (key : Vector Byte 24) (iv0 m : Bytes) :
    (cbcEnc kt key iv0 m).1.length = m.length / blockSize kt * blockSize kt := by
  simp only [cbcEnc]
  rw [flatten_length_of_uniform fun _ => length_of_mem_cbcEncBlocks, cbcEncBlocks_length, blocks_length]

theorem length_of_mem_cbcDecBlocks {kt : KeyType} {key : Vector Byte 24} {prev : Bytes} {cs : List Bytes} {b : Bytes}
    (hp : prev.length = blockSize kt) (hc : ∀ c ∈ cs, c.length = blockSize kt)
    (h : b ∈ cbcDecBlocks kt key prev cs) : b.length = blockSize kt := by
  induction cs generalizing prev with
  | nil => simp [cbcDecBlocks] at h
  | cons c cs ih =>
    simp only [cbcDecBlocks, List.mem_cons] at h
    rcases h with rfl | h
    · simp [hp]
    · exact ih (hc c (List.mem_cons_self ..)) (fun x hx => hc x (List.mem_cons_of_mem _ hx)) h

/-- R162: the plaintext is as long as the whole blocks of the input. -/
theorem cbcDec_bytes_length {kt : KeyType} (key : Vector Byte 24) {iv0 : Bytes} (m : Bytes)
    (h : iv0.length = blockSize kt) :
    (cbcDec kt key iv0 m).1.length = m.length / blockSize kt * blockSize kt := by
  simp only [cbcDec]
  rw [flatten_length_of_uniform fun _ => length_of_mem_cbcDecBlocks h fun _ => length_of_mem_blocks,
    cbcDecBlocks_length, blocks_length]

@[simp] theorem State.input_length (s : State) (len : Nat) : (s.input len).length = len := by
  simp [State.input, Memory.readBytes]

/-- R163, R165: a padded message fits the buffer where its input does, because whole blocks fill the buffer. -/
theorem State.message_length_le {s : State} {len : Nat} (h : len ≤ s.cfg.bufBytes) (c : CtxSel) (pad : Bool) :
    (s.message c pad len).length ≤ s.cfg.bufBytes := by
  cases pad with
  | false => simpa [State.message] using h
  | true =>
    simp only [State.message, zeroPad, if_true, List.length_append, State.input_length, zeros_length]
    unfold Config.bufBytes at h ⊢
    cases (s.ctx c).kt <;> simp only [blockSize] <;> omega

end Sys2Proof.Machine
end

section
/-! PROOFS. The invariant (R21, R25, R29, R34, R35): the part of it that speaks of data and the part that speaks of
flags, and that a command's writes, its end, and every host access keep both. -/

namespace Sys2Proof.Machine

/-- The invariant without its flags: contexts, buffers and MAC. -/
def State.dataOk (s : State) : Prop :=
  (∀ c, (s.ctx c).ivMasked) ∧ (∀ c, (s.ctx c).keyMasked) ∧ s.buffersOk ∧ s.macOk

theorem State.inv_iff (s : State) : s.Inv ↔ s.dataOk ∧ s.flagsOk := by
  simp only [State.Inv, State.dataOk, and_assoc]

/-! ### Contexts (R21, R25) -/

@[simp] theorem getD_replicate_zero (n k : Nat) : (Vector.replicate n (0 : Byte)).getD k 0 = 0 := by
  by_cases h : k < n <;> simp [Vector.getD, h]

theorem Ctx.clear_ivMasked : Ctx.clear.ivMasked := fun k _ => getD_replicate_zero 16 k

theorem Ctx.clear_keyMasked : Ctx.clear.keyMasked := ⟨fun k _ => getD_replicate_zero 24 k, fun _ => rfl⟩

theorem loadedCtx_ivMasked (kt : KeyType) (keyin : Vector Byte 24) : (loadedCtx kt keyin).ivMasked :=
  fun k _ => getD_replicate_zero 16 k

/-- R114: a loaded key has zeros beyond the length of its type. -/
theorem loadedCtx_keyMasked (kt : KeyType) (keyin : Vector Byte 24) : (loadedCtx kt keyin).keyMasked := by
  refine ⟨fun k hk => ?_, fun h => nomatch h⟩
  have hl : (keyin.toList.take (keyLen kt)).length ≤ k := (List.length_take_le ..).trans hk
  simp only [loadedCtx, fixBytes_getD, List.getD_eq_default _ _ hl, ite_self]

/-- The IV of a context decides whether it is masked, the rest of it how far. -/
theorem Ctx.setIv_ivMasked (x : Ctx) (v : Vector Byte 16) :
    ({ x with iv := v } : Ctx).ivMasked ↔ ∀ k, x.bsc ≤ k → v.getD k 0 = 0 := Iff.rfl

theorem Ctx.setIv_keyMasked (x : Ctx) (v : Vector Byte 16) : ({ x with iv := v } : Ctx).keyMasked ↔ x.keyMasked :=
  Iff.rfl

/-- R25: an IV of one block is masked in a context that holds a key. -/
theorem Ctx.ivMasked_of_block {x : Ctx} (hx : x.kv = true) {last : Bytes} (hl : last.length = blockSize x.kt) :
    ({ x with iv := fixBytes 16 last } : Ctx).ivMasked := by
  rw [Ctx.setIv_ivMasked, Ctx.bsc_of_kv hx, ← hl]
  intro k hk
  rw [fixBytes_getD, List.getD_eq_default _ _ hk, ite_self]

/-- R60: a masked IV write keeps the IV masked. -/
theorem Ctx.ivMasked_storeLanes {x : Ctx} (h : x.ivMasked) (k : Nat) (v : Word) :
    ({ x with iv := storeLanes x.bsc x.iv k v } : Ctx).ivMasked := by
  rw [Ctx.setIv_ivMasked]
  intro i hi
  rw [storeLanes_getD, if_neg (Nat.not_lt.mpr hi), h i hi, ite_self, ite_self]

theorem commandWrites_ivMasked {i : Instr} {s : State} (hc : preChecks i s = none) (h : ∀ c, (s.ctx c).ivMasked)
    (c : CtxSel) : ((commandWrites i s).ctx c).ivMasked := by
  rcases commandWrites_ctx_cases hc c with hk | ⟨-, hk⟩ | ⟨kt, -, hk⟩ | ⟨-, hkv, last, hl, hk⟩ <;> rw [hk]
  · exact h c
  · exact Ctx.clear_ivMasked
  · exact loadedCtx_ivMasked _ _
  · exact Ctx.ivMasked_of_block hkv hl

theorem commandWrites_keyMasked {i : Instr} {s : State} (hc : preChecks i s = none) (h : ∀ c, (s.ctx c).keyMasked)
    (c : CtxSel) : ((commandWrites i s).ctx c).keyMasked := by
  rcases commandWrites_ctx_cases hc c with hk | ⟨-, hk⟩ | ⟨kt, -, hk⟩ | ⟨-, -, last, -, hk⟩ <;> rw [hk]
  · exact h c
  · exact Ctx.clear_keyMasked
  · exact loadedCtx_keyMasked _ _
  · exact (Ctx.setIv_keyMasked _ _).mpr (h c)

/-! ### Buffers (R33, R34) -/

/-- The buffers' part of the invariant reads only the buffers, `OUTLEN` and the parameter. -/
theorem State.buffersOk_congr {s t : State} (hdin : t.din = s.din) (hdout : t.dout = s.dout)
    (hlen : t.outlen = s.outlen) (hcfg : t.cfg = s.cfg) : t.buffersOk ↔ s.buffersOk := by
  simp only [State.buffersOk, hdin, hdout, hlen, hcfg]

theorem State.writeBackIv_buffersOk (s : State) (c : CtxSel) (u : Bool) (n : Nat) (l : Bytes) :
    (s.writeBackIv c u n l).buffersOk ↔ s.buffersOk :=
  State.buffersOk_congr (by simp) (by simp) (by simp) (by simp)

theorem State.setCtx_buffersOk (s : State) (c : CtxSel) (x : Ctx) : (s.setCtx c x).buffersOk ↔ s.buffersOk :=
  State.buffersOk_congr (by simp) (by simp) (by simp) (by simp)

theorem State.buffersOk_of_nil {s : State} (hdin : s.din = []) (hdout : s.dout = []) (hlen : s.outlen = 0) :
    s.buffersOk := by
  simp [State.buffersOk, Memory.wf, hdin, hdout, hlen]

/-- R34, R61: an output that fits keeps the buffers in order. -/
theorem State.output_buffersOk {s : State} (h : s.buffersOk) {b : Bytes} (hb : b.length ≤ s.cfg.bufBytes) :
    (s.output b).buffersOk := by
  obtain ⟨hdin, hdout, hdinLt, hdoutLt, -⟩ := h
  refine ⟨hdin, Memory.writeBytes_wf b hdout 0, hdinLt, Memory.writeBytes_within b hdoutLt (by omega), ?_⟩
  rw [State.output_outlen, BitVec.toNat_ofNat]
  exact (Nat.mod_le ..).trans hb

/-- R33, R61: bytes written into DIN inside the buffer keep the buffers in order. -/
theorem State.writeDin_buffersOk {s : State} (h : s.buffersOk) {b : Bytes} {k : Nat}
    (hk : k + b.length ≤ s.cfg.bufBytes) : State.buffersOk { s with din := Memory.writeBytes s.din k b } := by
  obtain ⟨hdin, hdout, hdinLt, hdoutLt, hlen⟩ := h
  exact ⟨Memory.writeBytes_wf b hdin k, hdout, Memory.writeBytes_within b hdinLt hk, hdoutLt, hlen⟩

/-- R56, R61: a word written to DIN inside the buffer keeps the buffers in order. -/
theorem State.storeWord_buffersOk {s : State} (h : s.buffersOk) {k : Nat} (hk : k + 4 ≤ s.cfg.bufBytes) (v : Word) :
    State.buffersOk { s with din := Memory.storeWord s.din k v } := State.writeDin_buffersOk h hk

/-- R207, R208: an appended CRC that fits keeps the buffers in order. -/
theorem State.appendCrc_buffersOk {s : State} (h : s.buffersOk) {app : Bool} {len : Nat} {b : Bytes}
    (hk : app = true → len + b.length ≤ s.cfg.bufBytes) : (s.appendCrc app len b).buffersOk := by
  cases app with
  | false => exact h
  | true => exact State.writeDin_buffersOk h (hk rfl)

theorem commandWrites_buffersOk {i : Instr} {s : State} (hc : preChecks i s = none) (h : s.buffersOk) :
    (commandWrites i s).buffersOk := by
  cases i with
  | clrctx c =>
    cases c with
    | s => exact State.buffersOk_of_nil rfl rfl rfl
    | x => exact h
  | loadkey c kt => exact (State.setCtx_buffersOk s c _).mpr h
  | ecbEnc c len =>
    obtain ⟨-, hlen, -⟩ := State.checkKeyed_none.mp hc
    refine State.output_buffersOk h ?_
    rw [ecbEncBytes_length, State.input_length]
    exact (Nat.div_mul_le_self ..).trans hlen
  | ecbDec c len =>
    obtain ⟨-, hlen, -⟩ := State.checkKeyed_none.mp hc
    refine State.output_buffersOk h ?_
    rw [ecbDecBytes_length, State.input_length]
    exact (Nat.div_mul_le_self ..).trans hlen
  | cbcEnc c uiv ziv pad len =>
    obtain ⟨-, hlen, -⟩ := State.checkKeyed_none.mp hc
    refine (State.writeBackIv_buffersOk ..).mpr (State.output_buffersOk h ?_)
    rw [State.cbcEncChain, cbcEnc_bytes_length]
    exact (Nat.div_mul_le_self ..).trans (State.message_length_le hlen c pad)
  | cbcDec c uiv ziv len =>
    obtain ⟨-, hlen, -⟩ := State.checkKeyed_none.mp hc
    refine (State.writeBackIv_buffersOk ..).mpr (State.output_buffersOk h ?_)
    rw [State.cbcDecChain, cbcDec_bytes_length _ _ (State.startIv_length ..), State.input_length]
    exact (Nat.div_mul_le_self ..).trans hlen
  | crc16 cont app len =>
    refine State.appendCrc_buffersOk (s := { s with crc16Acc := s.crc16Of cont len }) h ?_
    rw [leBytes_length]
    exact (State.checkCrc_none.mp hc).2
  | crc32 cont app len =>
    refine State.appendCrc_buffersOk (s := { s with crc32Acc := s.crc32Of cont len }) h ?_
    rw [leBytes_length]
    exact (State.checkCrc_none.mp hc).2
  | _ =>
    refine (State.buffersOk_congr ?_ ?_ ?_ ?_).mpr h <;> simp [commandWrites, State.cmacWrites_eq, State.setMac]

/-! ### MAC (R29) -/

theorem State.macOk_congr {s t : State} (hmac : t.mac = s.mac) (hlen : t.maclen = s.maclen) : t.macOk ↔ s.macOk := by
  simp only [State.macOk, hmac, hlen]

theorem State.macOk_of_zero {s : State} (hmac : s.mac = Vector.replicate 16 0) (hlen : s.maclen = 0) : s.macOk := by
  refine ⟨.inl hlen, fun k _ => ?_⟩
  rw [hmac, getD_replicate_zero]

/-- R29: a MAC of 8 or 16 bytes with its length is in order, whatever state it is written to. -/
theorem State.setMac_macOk (s : State) {mac : Bytes} {n : BitVec 5} (hn : n = 8 ∨ n = 16)
    (hl : mac.length ≤ n.toNat) : (s.setMac mac n).macOk := by
  refine ⟨.inr hn, fun k hk => ?_⟩
  have hk' : mac.length ≤ k := hl.trans hk
  simp only [State.setMac, fixBytes_getD, List.getD_eq_default _ _ hk', ite_self]

theorem State.writeBackIv_macOk (s : State) (c : CtxSel) (u : Bool) (n : Nat) (l : Bytes) :
    (s.writeBackIv c u n l).macOk ↔ s.macOk := State.macOk_congr (by simp) (by simp)

theorem commandWrites_macOk {i : Instr} {s : State} (h : s.macOk) : (commandWrites i s).macOk := by
  cases i with
  | clrctx c =>
    cases c with
    | s => exact State.macOk_of_zero rfl rfl
    | x => exact h
  | cbcMac c uiv ziv pad len =>
    refine (State.writeBackIv_macOk ..).mpr (State.setMac_macOk s ?_ ?_)
    · cases (s.ctx c).kt <;> decide
    · rw [State.cbcEncChain_last_length]
      cases (s.ctx c).kt <;> decide
  | cmac c uiv ziv vfy len =>
    rw [commandWrites, State.cmacWrites_eq]
    exact (State.writeBackIv_macOk ..).mpr (State.setMac_macOk _ (.inl rfl) (List.length_take_le ..))
  | _ =>
    refine (State.macOk_congr ?_ ?_).mpr h <;> simp [commandWrites, State.appendCrc_eq]

theorem commandWrites_dataOk {i : Instr} {s : State} (hc : preChecks i s = none) (h : s.dataOk) :
    (commandWrites i s).dataOk := by
  obtain ⟨hiv, hkey, hbuf, hmac⟩ := h
  exact ⟨commandWrites_ivMasked hc hiv, commandWrites_keyMasked hc hkey, commandWrites_buffersOk hc hbuf,
    commandWrites_macOk hmac⟩

/-! ### Updates that touch no data -/

theorem State.dataOk_congr {s t : State} (hctx : ∀ c, t.ctx c = s.ctx c) (hdin : t.din = s.din)
    (hdout : t.dout = s.dout) (hlen : t.outlen = s.outlen) (hcfg : t.cfg = s.cfg) (hmac : t.mac = s.mac)
    (hmaclen : t.maclen = s.maclen) : t.dataOk ↔ s.dataOk := by
  simp only [State.dataOk, hctx, State.buffersOk_congr hdin hdout hlen hcfg, State.macOk_congr hmac hmaclen]

theorem State.finish_dataOk (s : State) : s.finish.dataOk ↔ s.dataOk :=
  State.dataOk_congr (by simp) rfl rfl rfl rfl rfl rfl

theorem State.raise_dataOk (e : ErrKind) (s : State) : (s.raise e).dataOk ↔ s.dataOk :=
  State.dataOk_congr (by simp) rfl rfl rfl rfl rfl rfl

theorem State.accept_dataOk (cw : Word) (s : State) : (s.accept cw).dataOk ↔ s.dataOk :=
  State.dataOk_congr (by simp) rfl rfl rfl rfl rfl rfl

theorem State.acknowledge_dataOk (v : Word) (s : State) : (s.acknowledge v).dataOk ↔ s.dataOk :=
  State.dataOk_congr (by simp) rfl rfl rfl rfl rfl rfl

/-- The invariant reads nothing that stands beside the CEB but the parameter. -/
theorem State.inv_of_toCeb {s t : State} (hceb : t.toCeb = s.toCeb) (hcfg : t.cfg = s.cfg) : t.Inv ↔ s.Inv := by
  obtain ⟨ceb, cfg, ag, rs⟩ := s
  obtain ⟨ceb', cfg', ag', rs'⟩ := t
  subst hceb hcfg
  rfl

theorem State.setCtx_flagsOk (s : State) (c : CtxSel) (x : Ctx) : (s.setCtx c x).flagsOk ↔ s.flagsOk := by
  simp [State.flagsOk]

theorem State.setCtx_dataOk {s : State} (h : s.dataOk) {c : CtxSel} {x : Ctx} (hiv : x.ivMasked) (hkey : x.keyMasked) :
    (s.setCtx c x).dataOk := by
  obtain ⟨hivs, hkeys, hbuf, hmac⟩ := h
  refine ⟨fun d => ?_, fun d => ?_, (State.setCtx_buffersOk s c x).mpr hbuf,
    (State.macOk_congr (by simp) (by simp)).mpr hmac⟩ <;> rw [State.setCtx_ctx] <;> split
  · exact hiv
  · exact hivs d
  · exact hkey
  · exact hkeys d

/-! ### Flags (R35, R220) -/

/-- Idle flags are in order when the error record agrees with itself. -/
theorem State.flagsOk_of_idle {s : State} (hb : s.busy = false) (he : s.errcode = 0 ↔ s.err = false)
    (hc : s.errcode.toNat ≤ 4) : s.flagsOk :=
  ⟨fun h => absurd (hb ▸ h) Bool.false_ne_true, he, hc⟩

theorem State.raise_flagsOk (e : ErrKind) (s : State) : (s.raise e).flagsOk := by
  refine State.flagsOk_of_idle rfl ?_ ?_
  · simp only [State.raise_errcode, State.raise_err]
    cases e <;> decide
  · rw [State.raise_errcode]
    cases e <;> decide

theorem State.accept_flagsOk (cw : Word) (s : State) : (s.accept cw).flagsOk :=
  ⟨fun _ => ⟨rfl, rfl⟩, ⟨fun _ => rfl, fun _ => rfl⟩, Nat.zero_le _⟩

/-- R58: an acknowledgement clears `err` and `errcode` together. -/
theorem State.acknowledge_flagsOk {s : State} (h : s.flagsOk) (v : Word) : (s.acknowledge v).flagsOk := by
  obtain ⟨hbusy, herr, hcode⟩ := h
  refine ⟨fun hb => ?_, ?_, ?_⟩
  · obtain ⟨hd, he⟩ := hbusy hb
    simp [hd, he]
  · rw [State.acknowledge_errcode, State.acknowledge_err]
    cases v.getLsbD 2 with
    | false => simpa using herr
    | true => simp
  · rw [State.acknowledge_errcode]
    cases v.getLsbD 2 <;> simp [hcode]

/-! ### Commands -/

/-- Every completion of a command keeps the invariant. -/
theorem exec_inv {i : Instr} {s t : State} (hs : s.Inv) (h : exec i s = .next t) : t.Inv := by
  obtain ⟨hdata, -, herr, hcode⟩ := s.inv_iff.mp hs
  rw [State.inv_iff]
  obtain ⟨e, rfl⟩ | ⟨hc, rfl | ⟨e, rfl⟩⟩ := exec_cases h
  · exact ⟨(s.raise_dataOk e).mpr hdata, s.raise_flagsOk e⟩
  · refine ⟨(State.finish_dataOk _).mpr (commandWrites_dataOk hc hdata), State.flagsOk_of_idle rfl ?_ ?_⟩
    · rwa [State.finish_errcode, State.finish_err, (commandWrites_err s i).1, (commandWrites_err s i).2]
    · rwa [State.finish_errcode, (commandWrites_err s i).2]
  · exact ⟨(State.raise_dataOk e _).mpr (commandWrites_dataOk hc hdata), State.raise_flagsOk e _⟩

theorem engineTurn_inv {s t : State} (hs : s.Inv) (h : s.engineTurn = .next t) : t.Inv := by
  unfold State.engineTurn at h
  split at h
  · split at h
    · exact exec_inv hs h
    · cases h
      exact (State.inv_iff _).mpr ⟨(s.raise_dataOk _).mpr (s.inv_iff.mp hs).1, s.raise_flagsOk _⟩
  · cases h
    exact hs

/-! ### Host accesses -/

/-- R51: a word of DIN lies inside the buffer. -/
theorem locate_din_fits {cfg : Config} {a : Addr} {k : Nat} (h : locate cfg a = .ok (.din, k)) :
    k + 4 ≤ cfg.bufBytes := by
  have hk := locate_aligned h
  obtain ⟨-, r, hm, hel, -, hlt⟩ := locate_ok h
  have hdin : ∀ r ∈ regions cfg, r.el = .din → r.bytes = cfg.bufBytes := by simp [regions]
  rw [hdin r hm hel] at hlt
  unfold Config.bufBytes at hlt ⊢
  omega

/-- R41: the reset values meet the invariant, whatever the parameter. -/
theorem State.resetCeb_inv (s : State) : s.resetCeb.Inv := by
  refine ⟨fun c => ?_, fun c => ?_, State.buffersOk_of_nil rfl rfl rfl, State.macOk_of_zero rfl rfl,
    State.flagsOk_of_idle rfl ⟨fun _ => rfl, fun _ => rfl⟩ (Nat.zero_le _)⟩
  · cases c <;> exact Ctx.clear_ivMasked
  · cases c <;> exact Ctx.clear_keyMasked

theorem State.writeCtrl_inv {s : State} (hs : s.Inv) (v : Word) : (s.writeCtrl v).Inv := by
  unfold State.writeCtrl
  split
  · exact s.resetCeb_inv
  · exact hs

/-- R60: a write inside an IV register keeps the invariant, because it is masked. -/
theorem State.writeIv_inv {s : State} (hs : s.Inv) (c : CtxSel) (k : Nat) (v : Word) : (s.writeIv c k v).Inv := by
  obtain ⟨hdata, hflags⟩ := s.inv_iff.mp hs
  have ⟨hiv, hkey, _, _⟩ := hdata
  exact (State.inv_iff _).mpr ⟨State.setCtx_dataOk hdata (Ctx.ivMasked_storeLanes (hiv c) k v)
    ((Ctx.setIv_keyMasked _ _).mpr (hkey c)), (State.setCtx_flagsOk s c _).mpr hflags⟩

/-- R61: a word written to DIN inside the buffer keeps the invariant. -/
theorem State.storeWord_inv {s : State} (hs : s.Inv) {k : Nat} (hk : k + 4 ≤ s.cfg.bufBytes) (v : Word) :
    State.Inv { s with din := Memory.storeWord s.din k v } := by
  obtain ⟨hiv, hkey, hbuf, hmac, hflags⟩ := hs
  exact ⟨hiv, hkey, State.storeWord_buffersOk hbuf hk v, hmac, hflags⟩

theorem State.setKeyin_inv (s : State) (r : Vector Byte 24) : State.Inv { s with keyin := r } ↔ s.Inv := Iff.rfl

theorem State.setExpect_inv (s : State) (r : Vector Byte 16) : State.Inv { s with expect := r } ↔ s.Inv := Iff.rfl

theorem State.writeElement_inv {s : State} (hs : s.Inv) {el : Element} {k : Nat} (v : Word)
    (hk : el = .din → k + 4 ≤ s.cfg.bufBytes) : (s.writeElement el k v).Inv := by
  obtain ⟨hdata, hflags⟩ := s.inv_iff.mp hs
  cases el with
  | ctrl => exact State.writeCtrl_inv hs v
  | status => exact (State.inv_iff _).mpr ⟨(s.acknowledge_dataOk v).mpr hdata, State.acknowledge_flagsOk hflags v⟩
  | cmd => exact (State.inv_iff _).mpr ⟨(s.accept_dataOk v).mpr hdata, s.accept_flagsOk v⟩
  | iv c => exact State.writeIv_inv hs c k v
  | din => exact State.storeWord_inv hs (hk rfl) v
  | keyin => exact (s.setKeyin_inv _).mpr hs
  | expect => exact (s.setExpect_inv _).mpr hs
  | _ => exact hs

theorem State.hostWrite_inv {s : State} (hs : s.Inv) (a : Addr) (v : Word) : (s.hostWrite a v).Inv := by
  unfold State.hostWrite
  split
  · next el k hloc =>
    refine (State.inv_of_toCeb (s := s.writeMapped el k v) rfl rfl).mpr ?_
    unfold State.writeMapped
    split
    · exact hs
    · refine State.writeElement_inv hs v ?_
      rintro rfl
      exact locate_din_fits hloc
  · exact hs

theorem State.hostRead_inv {s : State} (hs : s.Inv) (a : Addr) : (s.hostRead a).Inv := by
  unfold State.hostRead
  split <;> exact hs

/-- Each agent's step keeps the invariant. -/
theorem takeEvent_inv {e : Event} {s t : State} (hs : s.Inv) (h : State.takeEvent e s = .next t) : t.Inv := by
  cases e with
  | hostRead a => cases h; exact State.hostRead_inv hs a
  | hostWrite a v => cases h; exact State.hostWrite_inv hs a v
  | engine => exact engineTurn_inv hs h
  | rst => cases h; exact s.resetCeb_inv

/-- Settles O10: the machine's step is one agent's, and each agent's keeps the invariant. -/
theorem stepKeepsInvariant : Obligations.StepKeepsInvariant := by
  intro s t hs h
  cases hag : s.agenda with
  | nil =>
    rw [step_empty hag] at h
    exact engineTurn_inv hs h
  | cons e rest =>
    rw [step_cons hag] at h
    exact takeEvent_inv (s := { s with agenda := rest }) hs h

/-- Settles O9: the state after reset is the reset CEB with the default parameter. -/
theorem resetMeetsInvariant : Obligations.ResetMeetsInvariant := State.reset.resetCeb_inv

end Sys2Proof.Machine
end

section
/-! PROOFS. The address map as a whole (R51): its rows do not overlap, so every word of a row is located in that row. -/

namespace Sys2Proof.Machine

theorem Config.bufBytes_le (cfg : Config) : cfg.bufBytes ≤ 0x10000 := by
  unfold Config.bufBytes
  omega

/-- R51: the rows of the map lie one after the other, each ending before the next begins. -/
theorem regions_sorted (cfg : Config) : (regions cfg).Pairwise fun p q => p.base + p.bytes ≤ q.base := by
  have hbuf := Config.bufBytes_le cfg
  simp only [regions, List.pairwise_cons, List.mem_cons, List.not_mem_nil, or_false, forall_eq_or_imp, forall_eq,
    List.Pairwise.nil, false_imp_iff, implies_true, and_true]
  omega

/-- R51: no address lies in two rows of the map. -/
theorem region_unique {cfg : Config} {p q : Region} (hp : p ∈ regions cfg) (hq : q ∈ regions cfg) {a : Nat}
    (hpa : p.holds a = true) (hqa : q.holds a = true) : p = q := by
  have symm : Std.Symm fun p q : Region => ¬(p.holds a = true ∧ q.holds a = true) :=
    ⟨fun _ _ h hqp => h hqp.symm⟩
  have apart : (regions cfg).Pairwise fun p q => ¬(p.holds a = true ∧ q.holds a = true) := by
    refine (regions_sorted cfg).imp fun {p q} hle => ?_
    simp only [Region.holds, Bool.and_eq_true, decide_eq_true_eq]
    omega
  by_contra hne
  exact apart.forall hp hq hne ⟨hpa, hqa⟩

/-- R51: every row of the map begins at a word boundary and ends inside the address space. -/
theorem region_bounds {cfg : Config} {r : Region} (hr : r ∈ regions cfg) :
    r.base % 4 = 0 ∧ r.base + r.bytes ≤ 2 ^ 18 := by
  have hbuf := Config.bufBytes_le cfg
  revert r
  simp only [regions, List.mem_cons, List.not_mem_nil, or_false, forall_eq_or_imp, forall_eq, true_and]
  omega

/-- R51: where the words of a row of the map are located. -/
theorem locate_of_mem {cfg : Config} {r : Region} (hr : r ∈ regions cfg) {k : Nat} (hk : k % 4 = 0)
    (hlt : k < r.bytes) : locate cfg (BitVec.ofNat 18 (r.base + k)) = .ok (r.el, k) := by
  obtain ⟨hbase, hend⟩ := region_bounds hr
  have ha : (BitVec.ofNat 18 (r.base + k)).toNat = r.base + k := by
    rw [BitVec.toNat_ofNat, Nat.mod_eq_of_lt (by omega)]
  have hholds : r.holds (r.base + k) = true := by simp [Region.holds, hlt]
  have hfind : (regions cfg).find? (fun q => q.holds (r.base + k)) = some r := by
    have hsome : ((regions cfg).find? fun q => q.holds (r.base + k)).isSome = true :=
      List.find?_isSome.mpr ⟨r, hr, hholds⟩
    obtain ⟨q, hq⟩ := Option.isSome_iff_exists.mp hsome
    have hqholds := List.find?_some hq
    rw [hq, region_unique (List.mem_of_find?_eq_some hq) hr hqholds hholds]
  rw [locate_of_find (by rw [ha]; omega) (by rwa [ha]), ha, Nat.add_sub_cancel_left]

theorem locate_keyin (cfg : Config) {k : Nat} (hk : k % 4 = 0) (hlt : k < 24) :
    locate cfg (BitVec.ofNat 18 (0x40 + k)) = .ok (.keyin, k) :=
  locate_of_mem (r := { el := .keyin, base := 0x40, bytes := 24 }) (by simp [regions]) hk hlt

theorem locate_expect (cfg : Config) {k : Nat} (hk : k % 4 = 0) (hlt : k < 16) :
    locate cfg (BitVec.ofNat 18 (0xB0 + k)) = .ok (.expect, k) :=
  locate_of_mem (r := { el := .expect, base := 0xB0, bytes := 16 }) (by simp [regions]) hk hlt

/-- R52, R56: a write to a mapped word takes its event from the agenda and is acknowledged. -/
theorem step_write_located {s : State} {a : Addr} {v : Word} {rest : List Event} {el : Element} {k : Nat}
    (hag : s.agenda = .hostWrite a v :: rest) (hloc : locate s.cfg a = .ok (el, k)) :
    step s = .next ((State.writeMapped { s with agenda := rest } el k v).reply .ack) := by
  rw [step_hostWrite hag, State.hostWrite_of_ok (s := { s with agenda := rest }) hloc]

/-- R56: while idle such a write reaches the element. -/
theorem step_write_idle {s : State} {a : Addr} {v : Word} {rest : List Event} {el : Element} {k : Nat}
    (hidle : s.busy = false) (hag : s.agenda = .hostWrite a v :: rest) (hloc : locate s.cfg a = .ok (el, k)) :
    step s = .next ((State.writeElement { s with agenda := rest } el k v).reply .ack) := by
  rw [step_write_located hag hloc, State.writeMapped_idle (s := { s with agenda := rest }) hidle]

end Sys2Proof.Machine
end

section
/-! PROOFS. Reset, the interrupt line, writes to KEYIN and EXPECT, and what a read can show of a key (R23, R27, R30,
R41, R42, R68). -/

namespace Sys2Proof.Machine

/-- Settles O8. -/
theorem resetGivesEveryElement : Obligations.ResetGivesEveryElement := by
  refine ⟨rfl, rfl, fun i => ⟨rfl, rfl⟩, fun s rest hag => step_rst hag, fun s v rest hag hv => ?_⟩
  rw [step_write_located hag (locate_ctrl _), State.writeMapped_ctrl, State.writeCtrl_reset hv]
  rfl

/-- Settles O29. -/
theorem interruptFollowsFlags : Obligations.InterruptFollowsFlags := by
  intro s
  refine ⟨?_, fun cw => ?_, ?_, ?_, rfl⟩
  · simp [State.irq]
  · simp [State.irq]
  · simp [State.irq]
  · rw [State.writeCtrl_enables rfl]
    simp [State.irq]

/-- R53, R56: a word written to a register whose every byte keeps what is written: its lanes in the word, and outside it
what was there. -/
theorem storeLanes_whole {n : Nat} (r : Vector Byte n) {k : Nat} (hk : k + 4 ≤ n) (v : Word) :
    (∀ j, j < 4 → (storeLanes n r k v).getD (k + j) 0 = v.extractLsb' (8 * j) 8) ∧
      ∀ i, i < k ∨ k + 4 ≤ i → (storeLanes n r k v).getD i 0 = r.getD i 0 := by
  refine ⟨fun j hj => ?_, fun i hi => ?_⟩
  · rw [storeLanes_getD, if_pos (by omega), if_pos (by omega), if_pos (by omega), Nat.add_sub_cancel_left, lane]
  · rw [storeLanes_getD, if_neg (c := k ≤ i ∧ i < k + 4) (by omega)]
    split
    · rfl
    · next h => simp [Vector.getD, h]

theorem State.writeElement_keyin (s : State) (k : Nat) (v : Word) :
    s.writeElement .keyin k v = { s with keyin := storeLanes 24 s.keyin k v } := rfl

theorem State.writeElement_expect (s : State) (k : Nat) (v : Word) :
    s.writeElement .expect k v = { s with expect := storeLanes 16 s.expect k v } := rfl

/-- R27, R56: what a step that stores a word in KEYIN leaves, and that it is acknowledged. -/
theorem step_write_keyin {s : State} {k : Nat} {v : Word} {rest : List Event} (hidle : s.busy = false)
    (hk : k % 4 = 0) (hlt : k < 24) (hag : s.agenda = .hostWrite (BitVec.ofNat 18 (0x40 + k)) v :: rest) :
    step s = .next
      { s with keyin := storeLanes 24 s.keyin k v, agenda := rest, replies := .ack :: s.replies } := by
  rw [step_write_idle hidle hag (locate_keyin s.cfg hk hlt), State.writeElement_keyin, State.reply]

/-- R30, R56: what a step that stores a word in EXPECT leaves, and that it is acknowledged. -/
theorem step_write_expect {s : State} {k : Nat} {v : Word} {rest : List Event} (hidle : s.busy = false)
    (hk : k % 4 = 0) (hlt : k < 16) (hag : s.agenda = .hostWrite (BitVec.ofNat 18 (0xB0 + k)) v :: rest) :
    step s = .next
      { s with expect := storeLanes 16 s.expect k v, agenda := rest, replies := .ack :: s.replies } := by
  rw [step_write_idle hidle hag (locate_expect s.cfg hk hlt), State.writeElement_expect, State.reply]

/-- Settles O27: both registers are rows of the map, and a whole word of each is stored. -/
theorem keyinAndExpectWritesStoreLanes : Obligations.KeyinAndExpectWritesStoreLanes := by
  intro s k v rest hidle hk
  refine ⟨fun hlt hag => ⟨_, step_write_keyin hidle hk hlt hag, ?_, ?_⟩,
    fun hlt hag => ⟨_, step_write_expect hidle hk hlt hag, ?_, ?_⟩⟩
  · rfl
  · exact storeLanes_whole s.keyin (by omega) v
  · rfl
  · exact storeLanes_whole s.expect (by omega) v

/-- R39: the status word of a context shows of its key only the single-DES detection. -/
theorem Ctx.statusWord_of_sdes {x : Ctx} {key : Vector Byte 24} (h : ({ x with key := key } : Ctx).sdes = x.sdes) :
    ({ x with key := key } : Ctx).statusWord = x.statusWord := by
  simp only [Ctx.statusWord, h]
  rfl

/-- R55, R68: no element of the map reads differently under other keys and another KEYIN with the same detection. -/
theorem readElement_of_sdes {s : State} {keyS keyX keyin' : Vector Byte 24}
    (hS : ({ s.ctxS with key := keyS } : Ctx).sdes = s.ctxS.sdes)
    (hX : ({ s.ctxX with key := keyX } : Ctx).sdes = s.ctxX.sdes) (el : Element) (k : Nat) :
    State.readElement
      { s with ctxS := { s.ctxS with key := keyS }, ctxX := { s.ctxX with key := keyX }, keyin := keyin' } el k =
        s.readElement el k := by
  cases el with
  | ctxs => exact Ctx.statusWord_of_sdes hS
  | ctxx => exact Ctx.statusWord_of_sdes hX
  | iv c => cases c <;> rfl
  | _ => rfl

/-- Settles O28: the access is located by the address alone, and the element located reads alike. -/
theorem keysCannotBeRead : Obligations.KeysCannotBeRead := by
  intro s keyS keyX keyin' a hS hX
  unfold State.hostRead
  cases hloc : locate s.cfg a with
  | error e => rfl
  | ok p =>
    obtain ⟨el, k⟩ := p
    simp only [State.reply_replies, readElement_of_sdes hS hX]

end Sys2Proof.Machine
end

section
/-! PROOFS. The status words as sums of their bits (R26, R35, R36, R39). -/

namespace Sys2Proof.Machine

/-- The number of a word put together from a high and a low part. -/
theorem toNat_append_eq_add {m n : Nat} (x : BitVec m) (y : BitVec n) : (x ++ y).toNat = x.toNat * 2 ^ n + y.toNat := by
  rw [BitVec.toNat_append, ← Nat.shiftLeft_add_eq_or_of_lt y.isLt, Nat.shiftLeft_eq]

theorem Ctx.bsc_le (x : Ctx) : x.bsc ≤ 16 := by
  unfold Ctx.bsc
  split
  · exact blockSize_le x.kt
  · exact Nat.zero_le _

theorem State.statusWord_toNat (s : State) : s.statusWord.toNat =
    s.busy.toNat + 2 * s.done.toNat + 4 * s.err.toNat + 8 * s.wib.toNat + 256 * s.errcode.toNat := by
  simp only [State.statusWord, toNat_append_eq_add, BitVec.toNat_ofBool, BitVec.toNat_ofNat]
  omega

theorem State.ctrlWord_toNat (s : State) : s.ctrlWord.toNat = 2 * s.ieDone.toNat + 4 * s.ieErr.toNat := by
  simp only [State.ctrlWord, toNat_append_eq_add, BitVec.toNat_ofBool, BitVec.toNat_ofNat]
  omega

theorem Ctx.statusWord_toNat (x : Ctx) :
    x.statusWord.toNat = x.kv.toNat + 2 * x.kt.code.toNat + 8 * x.sdes.toNat + 256 * x.bsc := by
  have hbsc := x.bsc_le
  simp only [Ctx.statusWord, toNat_append_eq_add, BitVec.toNat_ofBool, BitVec.toNat_ofNat]
  omega

/-- Two pieces of `n` bytes of a register are equal exactly when they agree byte by byte. -/
theorem take_eq_drop_take_iff {m n : Nat} (v : Vector Byte m) (h : n + n ≤ m) :
    v.toList.take n = (v.toList.drop n).take n ↔ ∀ k, k < n → v.getD k 0 = v.getD (k + n) 0 := by
  have hget (i : Nat) (hi : i < m) : v.toList[i]? = some (v.getD i 0) := by simp [Vector.getD, hi]
  have hlow (k : Nat) (hk : k < n) : (v.toList.take n)[k]? = some (v.getD k 0) := by
    rw [List.getElem?_take_of_lt hk, hget k (by omega)]
  have hhigh (k : Nat) (hk : k < n) : ((v.toList.drop n).take n)[k]? = some (v.getD (k + n) 0) := by
    rw [List.getElem?_take_of_lt hk, List.getElem?_drop, Nat.add_comm, hget (k + n) (by omega)]
  constructor
  · intro e k hk
    rw [← Option.some_inj, ← hlow k hk, ← hhigh k hk, e]
  · intro e
    apply List.ext_getElem?
    intro k
    by_cases hk : k < n
    · rw [hlow k hk, hhigh k hk, e k hk]
    · simp [hk]

/-- R26: the single-DES detection. -/
theorem Ctx.sdes_iff (x : Ctx) :
    x.sdes = true ↔ x.kv = true ∧ x.kt = .tdes2 ∧ ∀ k, k < 8 → x.key.getD k 0 = x.key.getD (k + 8) 0 := by
  simp only [Ctx.sdes, Bool.and_eq_true, decide_eq_true_eq, take_eq_drop_take_iff x.key (n := 8) (by decide), and_assoc]

/-- Settles O30. -/
theorem statusViewsShowTheFlags : Obligations.StatusViewsShowTheFlags :=
  ⟨State.statusWord_toNat, State.ctrlWord_toNat, Ctx.statusWord_toNat, Ctx.sdes_iff⟩

end Sys2Proof.Machine
end

section
/-! PROOFS. The results of the data commands (R142, R143, R167, R187, R188, R207, R208): bytes of an output made of
blocks, the chaining inputs in the statements' own words, and each command's completion. -/

namespace Sys2Proof.Machine

/-! ### Outputs made of blocks (R54, R142, R143) -/

/-- Byte `j` of block `i` of blocks of one size put end to end. -/
theorem flatten_getD_of_uniform {n : Nat} {bs : List Bytes} (h : ∀ b ∈ bs, b.length = n) {i j : Nat}
    (hi : i < bs.length) (hj : j < n) : bs.flatten.getD (i * n + j) 0 = (bs.getD i []).getD j 0 := by
  induction bs generalizing i with
  | nil => simp at hi
  | cons b bs ih =>
    have hb : b.length = n := h b (List.mem_cons_self ..)
    cases i with
    | zero =>
      rw [List.flatten_cons, Nat.zero_mul, Nat.zero_add, List.getD_append _ _ _ _ (hb ▸ hj)]
      rfl
    | succ i =>
      have hle : b.length ≤ (i + 1) * n + j := by
        rw [hb, Nat.succ_mul]
        omega
      have hsub : (i + 1) * n + j - b.length = i * n + j := by
        rw [hb, Nat.succ_mul]
        omega
      rw [List.flatten_cons, List.getD_append_right _ _ _ _ hle, hsub,
        ih (fun x hx => h x (List.mem_cons_of_mem _ hx)) (Nat.lt_of_succ_lt_succ hi)]
      rfl

/-- R67: a piece of the bytes read from a buffer. -/
theorem Memory.readBytes_drop_take (m : Memory) {i len a n : Nat} (h : a + n ≤ len) :
    ((Memory.readBytes m i len).drop a).take n = Memory.readBytes m (i + a) n := by
  apply List.ext_getElem?
  intro k
  by_cases hk : k < n
  · rw [List.getElem?_take_of_lt hk, List.getElem?_drop, Memory.readBytes, Memory.readBytes, byteTable_getElem?,
      byteTable_getElem?, if_pos (by omega), if_pos hk, Nat.add_assoc]
  · simp [Memory.readBytes, hk, byteTable]

/-- R54: block `i` of a message. -/
theorem blocks_getD {bs i : Nat} {m : Bytes} (hi : i < m.length / bs) :
    (blocks bs m).getD i [] = (m.drop (i * bs)).take bs := by
  simp [blocks, List.getD, hi]

/-- R54: block `i` of a command's input. -/
theorem blocks_input_getD (s : State) {bs len i : Nat} (hi : i < len / bs) :
    (blocks bs (s.input len)).getD i [] = Memory.readBytes s.din (i * bs) bs := by
  have hfit : i * bs + bs ≤ len := by
    rw [← Nat.succ_mul]
    exact (Nat.mul_le_mul_right bs hi).trans (Nat.div_mul_le_self len bs)
  rw [blocks_getD (by rwa [State.input_length]), State.input, Memory.readBytes_drop_take s.din hfit, Nat.zero_add]

/-- R142, R143: the completion of a command that puts each block of its input through `f` into DOUT. -/
theorem exec_blockwise {i : Instr} {s : State} {bs len : Nat} {f : Bytes → Bytes} (hc : preChecks i s = none)
    (hv : verifyFails i s = false) (hw : commandWrites i s = s.output ((blocks bs (s.input len)).map f).flatten)
    (hf : ∀ b, (f b).length = bs) (hwf : Memory.wf s.dout) (hlen : len % bs = 0) :
    ∃ t, exec i s = .next t ∧
      t = { s with dout := t.dout, outlen := BitVec.ofNat 16 len, busy := false, done := true } ∧
      (∀ i j, i < len / bs → j < bs →
        Memory.read t.dout (i * bs + j) = (f (Memory.readBytes s.din (i * bs) bs)).getD j 0) ∧
      ∀ k, len ≤ k → Memory.read t.dout k = Memory.read s.dout k := by
  have huni : ∀ b ∈ (blocks bs (s.input len)).map f, b.length = bs := by simp [hf]
  have hcount : ((blocks bs (s.input len)).map f).length = len / bs := by simp [blocks_length]
  have hout : ((blocks bs (s.input len)).map f).flatten.length = len := by
    rw [flatten_length_of_uniform huni, hcount, Nat.div_mul_cancel (Nat.dvd_of_mod_eq_zero hlen)]
  refine ⟨_, exec_of_passes hc hv, ?_, fun i j hi hj => ?_, fun k hk => ?_⟩
  · rw [hw, State.output, hout]
    rfl
  · have hlt : i * bs + j < 0 + ((blocks bs (s.input len)).map f).flatten.length := by
      have := Nat.mul_le_mul_right bs hi
      rw [hout, Nat.zero_add, ← Nat.div_mul_cancel (Nat.dvd_of_mod_eq_zero hlen)]
      rw [Nat.succ_mul] at this
      omega
    rw [State.finish_dout, hw, State.output_dout, Memory.read_writeBytes _ _ hwf, if_pos ⟨Nat.zero_le _, hlt⟩,
      Nat.sub_zero, flatten_getD_of_uniform huni (hcount ▸ hi) hj, ← blocks_input_getD s hi]
    have hi' : i < (blocks bs (s.input len)).length := by simpa [blocks_length] using hi
    simp [List.getD, hi']
  · rw [State.finish_dout, hw, State.output_dout, Memory.read_writeBytes _ _ hwf, if_neg (by omega)]

/-- Settles O34. -/
theorem ecbEncResult : Obligations.EcbEncResult := fun _ c len hkv hwf hle hlen =>
  exec_blockwise (i := .ecbEnc c len) (State.checkKeyed_none.mpr ⟨hkv, hle, State.ragged_false.mpr hlen⟩) rfl rfl
    (blkEnc_length _ _) hwf hlen

/-- Settles O35. -/
theorem ecbDecResult : Obligations.EcbDecResult := fun _ c len hkv hwf hle hlen =>
  exec_blockwise (i := .ecbDec c len) (State.checkKeyed_none.mpr ⟨hkv, hle, State.ragged_false.mpr hlen⟩) rfl rfl
    (blkDec_length _ _) hwf hlen

/-! ### The MAC commands (R160, R163, R164, R167, R182 to R188) -/

/-- R163, R165: the message of a CBC encryption as one expression. -/
theorem State.message_eq (s : State) (c : CtxSel) (pad : Bool) (len : Nat) :
    let bs := blockSize (s.ctx c).kt
    s.message c pad len =
      Memory.readBytes s.din 0 len ++ List.replicate (if pad then (bs - len % bs) % bs else 0) 0 := by
  cases pad <;> simp [State.message, zeroPad, zeros, State.input, Memory.readBytes]

/-- R164: the write-back of a command that ran over at least one block, as one update of the context. -/
theorem State.writeBackIv_eq (s : State) (c : CtxSel) (uiv : Bool) {n : Nat} (hn : 0 < n) (last : Bytes) :
    s.writeBackIv c uiv n last =
      s.setCtx c { s.ctx c with iv := if uiv then fixBytes 16 last else (s.ctx c).iv } := by
  cases uiv with
  | false => cases c <;> rfl
  | true => simp [State.writeBackIv, hn]

/-- R167: the writes of CBC.MAC and the end of the command, as one update. -/
theorem State.setMac_setCtx_finish (s : State) (c : CtxSel) (x : Ctx) (mac : Bytes) (n : BitVec 5) :
    ((s.setMac mac n).setCtx c x).finish =
      { s.setCtx c x with mac := fixBytes 16 mac, maclen := n, busy := false, done := true } := by
  cases c <;> simp only [State.setCtx, State.setMac, State.finish]

/-- Settles O38. -/
theorem cbcMacResult : Obligations.CbcMacResult := by
  intro s c uiv ziv pad len hkv hpos hle hpad
  have hbad : (decide (len = 0) || (!pad && s.ragged c len)) = false := by
    rcases hpad with rfl | hpad
    · simp [Nat.pos_iff_ne_zero.mp hpos]
    · simp [Nat.pos_iff_ne_zero.mp hpos, State.ragged_false.mpr hpad]
  have hc : preChecks (.cbcMac c uiv ziv pad len) s = none := State.checkKeyed_none.mpr ⟨hkv, hle, hbad⟩
  rw [exec_of_passes hc rfl, commandWrites, State.writeBackIv_eq _ _ _ hpos, State.setMac_setCtx_finish,
    State.setMac_ctx, State.cbcEncChain, State.message_eq]
  rfl

/-- R182: the encryption of the zero block, as CBC from a zero chaining value. -/
theorem cbcEnc_zero_block (kt : KeyType) (key : Vector Byte 24) :
    (cbcEnc kt key (zeros (blockSize kt)) (zeros (blockSize kt))).1 =
      blkEnc kt key (List.replicate (blockSize kt) 0) := by
  have hblocks : blocks (blockSize kt) (zeros (blockSize kt)) = [zeros (blockSize kt)] := by
    simp [blocks, Nat.div_self (blockSize_pos kt), zeros]
  have hxor : xorBytes (zeros (blockSize kt)) (zeros (blockSize kt)) = List.replicate (blockSize kt) 0 := by
    simp [xorBytes, zeros]
  simp only [cbcEnc, hblocks, cbcEncBlocks, hxor, List.flatten_cons, List.flatten_nil, List.append_nil]

/-- R182: the subkeys are the doubling of the encrypted zero block and the doubling of that. -/
theorem subkeys_eq (kt : KeyType) (key : Vector Byte 24) :
    subkeys kt key =
      (dbl kt (blkEnc kt key (List.replicate (blockSize kt) 0)),
        dbl kt (dbl kt (blkEnc kt key (List.replicate (blockSize kt) 0)))) := by
  rw [subkeys, cbcEnc_zero_block]

/-- Settles O39. -/
theorem subkResult : Obligations.SubkResult := by
  intro s c hkv
  have hc : preChecks (.subk c) s = none := State.checkKey_none.mpr hkv
  rw [exec_of_passes hc rfl, commandWrites, subkeys_eq, State.setSubkeys, State.finish]

theorem macOf_length {kt : KeyType} {last : Bytes} (h : last.length = blockSize kt) : (macOf kt last).length = 8 := by
  cases kt <;> simp [macOf, h, blockSize]

/-- A byte string is found again at the front of the register made from it. -/
theorem fixBytes_toList_take {n : Nat} {b : Bytes} (h : b.length ≤ n) : (fixBytes n b).toList.take b.length = b := by
  apply List.ext_getElem?
  intro k
  by_cases hk : k < b.length
  · have hn : k < n := by omega
    simp [fixBytes, hk, hn]
  · simp [hk]

/-- R189: the verification of CMAC compares the MAC it computes with EXPECT. -/
theorem verifyFails_cmac (s : State) (c : CtxSel) (uiv ziv vfy : Bool) (len : Nat) :
    verifyFails (.cmac c uiv ziv vfy len) s =
      (vfy && decide (s.computedMac c ziv len ≠ s.expect.toList.take 8)) := by
  have hmac : (s.cmacWrites c uiv ziv len).mac.toList.take 8 = s.computedMac c ziv len := by
    have hl : (s.computedMac c ziv len).length = 8 := macOf_length (s.cmacChain_last_length c ziv len)
    have hm : (s.cmacWrites c uiv ziv len).mac = fixBytes 16 (s.computedMac c ziv len) := by
      rw [State.cmacWrites_eq, State.writeBackIv_mac]
      rfl
    rw [hm, ← hl, fixBytes_toList_take (by omega)]
  have hexp : (s.cmacWrites c uiv ziv len).expect = s.expect := by
    simp [State.cmacWrites_eq, State.setMac]
  rw [verifyFails, State.macMatches, hmac, hexp, decide_not]

/-- R188: the writes of CMAC and the end of the command, as one update. -/
theorem State.setSubkeys_setMac_setCtx_finish (s : State) (c : CtxSel) (x : Ctx) (ks : Bytes × Bytes) (mac : Bytes)
    (n : BitVec 5) :
    (((s.setSubkeys ks).setMac mac n).setCtx c x).finish =
      { s.setCtx c x with
        k1 := fixBytes 16 ks.1, k2 := fixBytes 16 ks.2, mac := fixBytes 16 mac, maclen := n
        busy := false, done := true } := by
  cases c <;> simp only [State.setCtx, State.setSubkeys, State.setMac, State.finish]

/-- Settles O40. -/
theorem cmacResult : Obligations.CmacResult := by
  intro s c uiv ziv vfy len hkv hpos hle hvfy
  have hc : preChecks (.cmac c uiv ziv vfy len) s = none :=
    State.checkKeyed_none.mpr ⟨hkv, hle, decide_eq_false (Nat.pos_iff_ne_zero.mp hpos)⟩
  have hv : verifyFails (.cmac c uiv ziv vfy len) s = false := by
    rw [verifyFails_cmac]
    cases vfy with
    | false => rfl
    | true => simp [hvfy rfl]
  rw [exec_of_passes hc hv, commandWrites, State.cmacWrites_eq, State.writeBackIv_eq _ _ _ hpos,
    State.setSubkeys_setMac_setCtx_finish, State.setMac_ctx, State.setSubkeys_ctx, State.cmacChain, cmacCore,
    subkeys_eq]
  rfl

/-! ### The CRC commands (R202, R206 to R208) -/

/-- R202, R206: byte `j` of a register's bytes, low byte first. -/
theorem leBytes_getD {w : Nat} (v : BitVec w) {n j : Nat} (hj : j < n) :
    (leBytes n v).getD j 0 = v.extractLsb' (8 * j) 8 := by rw [leBytes, byteTable_getD, if_pos hj]

/-- R207, R208: DIN after a register's `n` bytes follow the data. -/
theorem read_append_leBytes {m : Memory} (h : Memory.wf m) {w : Nat} (v : BitVec w) (n len k : Nat) :
    Memory.read (Memory.writeBytes m len (leBytes n v)) k =
      if len ≤ k ∧ k < len + n then v.extractLsb' (8 * (k - len)) 8 else Memory.read m k := by
  rw [Memory.read_writeBytes _ _ h, leBytes_length]
  split
  · rw [leBytes_getD _ (by omega)]
  · rfl

/-- Settles O42. -/
theorem crc16Result : Obligations.Crc16Result := by
  intro s cont app len hwf hle happ
  have hc : preChecks (.crc16 cont app len) s = none := State.checkCrc_none.mpr ⟨hle, happ⟩
  refine ⟨_, exec_of_passes hc rfl, ?_, ?_, ?_⟩
  · rw [commandWrites, State.appendCrc_eq]
    rfl
  · rintro rfl
    rfl
  · rintro rfl k
    rw [commandWrites, State.appendCrc_eq, State.finish_din, if_pos rfl, read_append_leBytes hwf]
    by_cases h0 : k = len
    · subst h0
      rw [if_pos rfl, if_pos (by omega), Nat.sub_self]
      rfl
    · by_cases h1 : k = len + 1
      · subst h1
        rw [if_neg h0, if_pos rfl, if_pos (by omega), Nat.add_sub_cancel_left]
        rfl
      · rw [if_neg h0, if_neg h1, if_neg (by omega)]

/-- Settles O43. -/
theorem crc32Result : Obligations.Crc32Result := by
  intro s cont app len hwf hle happ
  have hc : preChecks (.crc32 cont app len) s = none := State.checkCrc_none.mpr ⟨hle, happ⟩
  refine ⟨_, exec_of_passes hc rfl, ?_, ?_, ?_⟩
  · rw [commandWrites, State.appendCrc_eq]
    rfl
  · rintro rfl
    rfl
  · rintro rfl k
    rw [commandWrites, State.appendCrc_eq, State.finish_din, if_pos rfl, read_append_leBytes hwf]
    rfl

end Sys2Proof.Machine
end

section
/-! PROOFS. Which accesses are answered (R51, R52): the mapped addresses are those of the rows of the map, and an access
is located exactly when it is aligned and mapped. -/

namespace Sys2Proof.Machine

/-- R51: the mapped addresses are the addresses in the rows of the map. -/
theorem mapped_iff_exists_region {cfg : Config} {a : Nat} :
    mapped cfg.bufBytes a ↔ ∃ r ∈ regions cfg, r.base ≤ a ∧ a < r.base + r.bytes := by
  simp only [mapped, regions, List.mem_cons, List.not_mem_nil, or_false, exists_eq_or_imp, exists_eq_left]
  omega

/-- R51: an aligned address in a row of the map is located in that row. -/
theorem locate_of_mem_of_le {cfg : Config} {r : Region} (hr : r ∈ regions cfg) {a : Addr} (ha : a.toNat % 4 = 0)
    (hle : r.base ≤ a.toNat) (hlt : a.toNat < r.base + r.bytes) :
    locate cfg a = .ok (r.el, a.toNat - r.base) := by
  obtain ⟨hbase, -⟩ := region_bounds hr
  have hloc := locate_of_mem hr (k := a.toNat - r.base) (by omega) (by omega)
  rwa [Nat.add_sub_cancel' hle, BitVec.ofNat_toNat, BitVec.setWidth_eq] at hloc

/-- R52: an access is located exactly when its address is aligned and mapped. -/
theorem exists_locate_iff {cfg : Config} {a : Addr} :
    (∃ p, locate cfg a = .ok p) ↔ a.toNat % 4 = 0 ∧ mapped cfg.bufBytes a.toNat := by
  rw [mapped_iff_exists_region]
  constructor
  · rintro ⟨⟨el, k⟩, hloc⟩
    obtain ⟨ha, r, hr, -, hak, hlt⟩ := locate_ok hloc
    exact ⟨ha, r, hr, by omega, by omega⟩
  · rintro ⟨ha, r, hr, hle, hlt⟩
    exact ⟨_, locate_of_mem_of_le hr ha hle hlt⟩

/-- R52: every other access gets an error response. -/
theorem exists_locate_error {cfg : Config} {a : Addr} (h : ¬(a.toNat % 4 = 0 ∧ mapped cfg.bufBytes a.toNat)) :
    ∃ e, locate cfg a = .error e := by
  cases hloc : locate cfg a with
  | error e => exact ⟨e, rfl⟩
  | ok p => exact absurd (exists_locate_iff.mp ⟨p, hloc⟩) h

/-- R51: CTRL is one word. -/
theorem eq_of_locate_ctrl {cfg : Config} {a : Addr} {k : Nat} (h : locate cfg a = .ok (.ctrl, k)) : a = 0x00004 := by
  have hk := locate_aligned h
  obtain ⟨-, r, hr, hel, ha, hlt⟩ := locate_ok h
  have hrow : ∀ r ∈ regions cfg, r.el = .ctrl → r.base = 4 ∧ r.bytes = 4 := by simp [regions]
  obtain ⟨hbase, hbytes⟩ := hrow r hr hel
  apply BitVec.eq_of_toNat_eq
  show a.toNat = 4
  omega

/-! ### Steps of the host -/

theorem State.readElement_outside (s : State) (ag : List Event) (rs : List Reply) (el : Element) (k : Nat) :
    State.readElement { s with agenda := ag, replies := rs } el k = s.readElement el k := by
  cases el with
  | iv c => cases c <;> rfl
  | _ => rfl

/-- R55, R62: a read of a mapped word takes its event from the agenda and answers the element's word. -/
theorem step_read_located {s : State} {a : Addr} {rest : List Event} {el : Element} {k : Nat}
    (hag : s.agenda = .hostRead a :: rest) (hloc : locate s.cfg a = .ok (el, k)) :
    step s = .next { s with agenda := rest, replies := .data (s.readElement el k) :: s.replies } := by
  rw [step_hostRead hag, State.hostRead_of_ok (s := { s with agenda := rest }) hloc,
    State.readElement_outside s rest s.replies]
  rfl

/-- R52: a read that is not located gets the error response. -/
theorem step_read_error {s : State} {a : Addr} {rest : List Event} {e : BusError}
    (hag : s.agenda = .hostRead a :: rest) (hloc : locate s.cfg a = .error e) :
    step s = .next { s with agenda := rest, replies := .error e :: s.replies } := by
  rw [step_hostRead hag, State.hostRead_of_error (s := { s with agenda := rest }) hloc]
  rfl

/-- R52: a write that is not located gets the error response. -/
theorem step_write_error {s : State} {a : Addr} {v : Word} {rest : List Event} {e : BusError}
    (hag : s.agenda = .hostWrite a v :: rest) (hloc : locate s.cfg a = .error e) :
    step s = .next { s with agenda := rest, replies := .error e :: s.replies } := by
  rw [step_hostWrite hag, State.hostWrite_of_error (s := { s with agenda := rest }) hloc]
  rfl

/-- R62: a read adds one answer, which depends on neither the agenda nor the earlier answers. -/
theorem exists_hostRead_reply (s : State) (a : Addr) :
    ∃ r : Reply, ∀ ag rs, State.hostRead { s with agenda := ag, replies := rs } a =
      { s with agenda := ag, replies := r :: rs } := by
  cases hloc : locate s.cfg a with
  | error e =>
    exact ⟨.error e, fun ag rs => State.hostRead_of_error (s := { s with agenda := ag, replies := rs }) hloc⟩
  | ok p =>
    obtain ⟨el, k⟩ := p
    refine ⟨.data (s.readElement el k), fun ag rs => ?_⟩
    rw [State.hostRead_of_ok (s := { s with agenda := ag, replies := rs }) hloc, State.readElement_outside, State.reply]

/-- R59: a write to CTRL stays inside the CEB. -/
theorem State.writeCtrl_outside (s : State) (v : Word) :
    (s.writeCtrl v).agenda = s.agenda ∧ (s.writeCtrl v).replies = s.replies := by
  unfold State.writeCtrl
  split <;> exact ⟨rfl, rfl⟩

/-- R56 to R60, R69: every write stays inside the CEB. -/
theorem State.writeMapped_outside (s : State) (el : Element) (k : Nat) (v : Word) :
    (s.writeMapped el k v).agenda = s.agenda ∧ (s.writeMapped el k v).replies = s.replies := by
  unfold State.writeMapped
  split
  · exact ⟨rfl, rfl⟩
  · cases el with
    | ctrl => exact s.writeCtrl_outside v
    | _ => simp [State.writeElement, State.writeIv]

/-- Settles O18: an access is answered as it is located, and it is located exactly when it is aligned and mapped. -/
theorem badAccessChangesNothing : Obligations.BadAccessChangesNothing := by
  intro s a v rest
  refine ⟨fun hbad => ?_, fun hgood => ?_⟩
  · obtain ⟨e, hloc⟩ := exists_locate_error hbad
    exact ⟨fun hag => ⟨e, step_read_error hag hloc⟩, fun hag => ⟨e, step_write_error hag hloc⟩⟩
  · obtain ⟨⟨el, k⟩, hloc⟩ := exists_locate_iff.mpr hgood
    refine ⟨fun hag => ⟨_, step_read_located hag hloc⟩, fun hag => ⟨_, step_write_located hag hloc, ?_⟩⟩
    rw [State.reply_replies, (State.writeMapped_outside _ el k v).2]

/-- Settles O19. -/
theorem readsHaveNoSideEffect : Obligations.ReadsHaveNoSideEffect := by
  intro s a rest hag
  obtain ⟨r, hread⟩ := exists_hostRead_reply s a
  refine ⟨r, run_two (t := { s with agenda := .hostRead a :: rest, replies := r :: s.replies }) ?_ ?_⟩
  · rw [step_hostRead hag, hread _ s.replies]
  · rw [step_hostRead rfl, hread rest (r :: s.replies)]

end Sys2Proof.Machine
end

section
/-! PROOFS. Writes of the host: ignored while busy (R69), to read-only registers (R56), to STATUS and CTRL (R58, R59),
to the IV registers (R60) and to DIN (R61). -/

namespace Sys2Proof.Machine

/-- Settles O17: only CTRL is located at its address. -/
theorem busyWritesAreIgnored : Obligations.BusyWritesAreIgnored := by
  intro s a v rest hbusy hag ha hmap hne
  obtain ⟨⟨el, k⟩, hloc⟩ := exists_locate_iff.mpr ⟨ha, hmap⟩
  have hel : el ≠ .ctrl := by
    rintro rfl
    exact hne (eq_of_locate_ctrl hloc)
  rw [step_write_located hag hloc, State.writeMapped_busy (s := { s with agenda := rest }) hbusy hel]
  rfl

/-! ### Read-only registers (R56) -/

/-- R51: the elements whose access is RO. -/
def Element.readOnly : Element → Bool
  | .id | .outlen | .maclen | .crc16 | .crc32 | .ctxs | .ctxx | .k1 | .k2 | .mac | .dout => true
  | .ctrl | .status | .cmd | .keyin | .iv _ | .expect | .din => false

theorem State.writeElement_readOnly (s : State) {el : Element} (h : el.readOnly = true) (k : Nat) (v : Word) :
    s.writeElement el k v = s := by
  cases el with
  | ctrl | status | cmd | keyin | iv | expect | din => exact absurd h Bool.false_ne_true
  | _ => rfl

/-- R51: where the read-only elements lie. -/
theorem exists_readOnly_region_iff {cfg : Config} {a : Nat} :
    (∃ r ∈ regions cfg, r.el.readOnly = true ∧ r.base ≤ a ∧ a < r.base + r.bytes) ↔
      a < 0x04 ∨ (0x10 ≤ a ∧ a < 0x28) ∨ (0x80 ≤ a ∧ a < 0xB0) ∨ (0x20000 ≤ a ∧ a < 0x20000 + cfg.bufBytes) := by
  simp only [regions, List.mem_cons, List.not_mem_nil, or_false, exists_eq_or_imp, exists_eq_left, Element.readOnly,
    Bool.false_eq_true, false_and, true_and, false_or]
  omega

/-- Settles O21. -/
theorem readOnlyRegistersIgnoreWrites : Obligations.ReadOnlyRegistersIgnoreWrites := by
  intro s a v rest hidle hag ha hrange
  obtain ⟨r, hr, hro, hle, hlt⟩ := exists_readOnly_region_iff (cfg := s.cfg).mpr (hrange.imp_left fun h0 => by omega)
  rw [step_write_idle hidle hag (locate_of_mem_of_le hr ha hle hlt), State.writeElement_readOnly _ hro]
  rfl

/-! ### STATUS and CTRL (R58, R59) -/

/-- R58: the acknowledgement flag by flag, each cleared where the written bit is 1. -/
theorem State.acknowledge_eq (s : State) (v : Word) :
    s.acknowledge v = { s with
      done := if v.getLsbD 1 then false else s.done
      err := if v.getLsbD 2 then false else s.err
      errcode := if v.getLsbD 2 then 0 else s.errcode
      wib := if v.getLsbD 3 then false else s.wib } := by
  have clear : ∀ b f : Bool, (f && !b) = if b then false else f := by decide
  simp only [State.acknowledge, clear]

theorem State.writeElement_status (s : State) (k : Nat) (v : Word) :
    s.writeElement .status k v = s.acknowledge v := rfl

/-- Settles O22. -/
theorem statusWriteClearsFlags : Obligations.StatusWriteClearsFlags := by
  intro s v rest hidle hag
  rw [step_write_idle hidle hag (locate_status _), State.writeElement_status, State.acknowledge_eq]
  rfl

/-- Settles O23. -/
theorem ctrlWriteIsAlwaysHonoured : Obligations.CtrlWriteIsAlwaysHonoured := by
  intro s v rest hag
  rw [step_write_located hag (locate_ctrl _), State.writeMapped_ctrl]
  refine ⟨fun hv => ?_, fun hv => ?_⟩
  · rw [State.writeCtrl_reset hv]
    rfl
  · rw [State.writeCtrl_enables hv]
    rfl

/-! ### The IV registers (R60) -/

/-- R60: a word written to a register masked at `limit`: its lanes below the limit and 0 from there on, and outside the
word what was there. -/
theorem storeLanes_masked {n : Nat} (limit : Nat) (r : Vector Byte n) {k : Nat} (hk : k + 4 ≤ n) (v : Word) :
    (∀ j, j < 4 →
      (storeLanes limit r k v).getD (k + j) 0 = if k + j < limit then v.extractLsb' (8 * j) 8 else 0) ∧
      ∀ i, i < k ∨ k + 4 ≤ i → (storeLanes limit r k v).getD i 0 = r.getD i 0 := by
  refine ⟨fun j hj => ?_, fun i hi => ?_⟩
  · rw [storeLanes_getD, if_pos (by omega), if_pos (by omega), Nat.add_sub_cancel_left, lane]
  · rw [storeLanes_getD, if_neg (c := k ≤ i ∧ i < k + 4) (by omega)]
    split
    · rfl
    · next h => simp [Vector.getD, h]

/-- R60: a context whose IV register was written at a byte offset. -/
def Ctx.writeIv (x : Ctx) (k : Nat) (v : Word) : Ctx := { x with iv := storeLanes x.bsc x.iv k v }

theorem State.writeElement_iv (s : State) (c : CtxSel) (k : Nat) (v : Word) :
    s.writeElement (.iv c) k v = s.setCtx c ((s.ctx c).writeIv k v) := rfl

theorem locate_ivs (cfg : Config) {k : Nat} (hk : k % 4 = 0) (hlt : k < 16) :
    locate cfg (BitVec.ofNat 18 (0x60 + k)) = .ok (.iv .s, k) :=
  locate_of_mem (r := { el := .iv .s, base := 0x60, bytes := 16 }) (by simp [regions]) hk hlt

theorem locate_ivx (cfg : Config) {k : Nat} (hk : k % 4 = 0) (hlt : k < 16) :
    locate cfg (BitVec.ofNat 18 (0x70 + k)) = .ok (.iv .x, k) :=
  locate_of_mem (r := { el := .iv .x, base := 0x70, bytes := 16 }) (by simp [regions]) hk hlt

/-- R60: what a step that writes an IV register leaves, and that it is acknowledged. -/
theorem step_write_iv {s : State} {c : CtxSel} {a : Addr} {k : Nat} {v : Word} {rest : List Event}
    (hidle : s.busy = false) (hag : s.agenda = .hostWrite a v :: rest) (hloc : locate s.cfg a = .ok (.iv c, k)) :
    step s = .next
      { s.setCtx c ((s.ctx c).writeIv k v) with agenda := rest, replies := .ack :: s.replies } := by
  rw [step_write_idle hidle hag hloc, State.writeElement_iv]
  cases c <;> simp only [State.reply, State.setCtx, State.ctx]

/-- Settles O25. -/
theorem ivWriteIsMasked : Obligations.IvWriteIsMasked := by
  intro s c k v rest hidle hk hlt hag
  have hstep := step_write_iv (c := c) (k := k) hidle hag (by
    cases c with
    | s => exact locate_ivs s.cfg hk hlt
    | x => exact locate_ivx s.cfg hk hlt)
  have hctx : State.ctx { s.setCtx c ((s.ctx c).writeIv k v) with
      agenda := rest, replies := .ack :: s.replies } c = (s.ctx c).writeIv k v := by
    cases c <;> simp only [State.setCtx, State.ctx]
  refine ⟨_, hstep, ?_⟩
  rw [hctx]
  exact ⟨rfl, rfl, storeLanes_masked (s.ctx c).bsc (s.ctx c).iv (by omega) v⟩

/-! ### DIN (R61) -/

/-- R53, R56: a byte of a buffer after a word is written: its lane in the word, and outside it what was there. -/
theorem Memory.read_storeWord {m : Memory} (h : Memory.wf m) (k : Nat) (v : Word) :
    (∀ j, j < 4 → Memory.read (Memory.storeWord m k v) (k + j) = lane v j) ∧
      ∀ i, i < k ∨ k + 4 ≤ i → Memory.read (Memory.storeWord m k v) i = Memory.read m i := by
  unfold Memory.storeWord
  refine ⟨fun j hj => ?_, fun i hi => ?_⟩
  · rw [Memory.read_writeBytes _ m h, if_pos ⟨Nat.le_add_right k j, Nat.add_lt_add_left hj k⟩, Nat.add_sub_cancel_left]
    interval_cases j <;> rfl
  · rw [Memory.read_writeBytes _ m h]
    refine if_neg ?_
    simp only [List.length_cons, List.length_nil]
    omega

/-- R53, R61: a word written to a buffer reads back. -/
theorem Memory.loadWord_storeWord {m : Memory} (h : Memory.wf m) (k : Nat) (v : Word) :
    Memory.loadWord (Memory.storeWord m k v) k = v := by
  obtain ⟨hlane, -⟩ := Memory.read_storeWord h k v
  calc Memory.loadWord (Memory.storeWord m k v) k
      = ofLanes (lane v 0) (lane v 1) (lane v 2) (lane v 3) := by
        rw [Memory.loadWord, hlane 1 (by omega), hlane 2 (by omega), hlane 3 (by omega), ← hlane 0 (by omega),
          Nat.add_zero]
    _ = v := ofLanes_lane v

theorem locate_din (cfg : Config) {k : Nat} (hk : k % 4 = 0) (hlt : k < cfg.bufBytes) :
    locate cfg (BitVec.ofNat 18 (0x10000 + k)) = .ok (.din, k) :=
  locate_of_mem (r := { el := .din, base := 0x10000, bytes := cfg.bufBytes }) (by simp [regions]) hk hlt

/-- R33, R56: what a step that stores a word in DIN leaves, and that it is acknowledged. -/
theorem step_write_din {s : State} {k : Nat} {v : Word} {rest : List Event} (hidle : s.busy = false)
    (hk : k % 4 = 0) (hlt : k < s.cfg.bufBytes) (hag : s.agenda = .hostWrite (BitVec.ofNat 18 (0x10000 + k)) v :: rest) :
    step s = .next
      { s with din := Memory.storeWord s.din k v, agenda := rest, replies := .ack :: s.replies } := by
  rw [step_write_idle hidle hag (locate_din s.cfg hk hlt)]
  rfl

/-- R33, R55: what a read of a word of DIN answers. -/
theorem step_read_din {s : State} {k : Nat} {rest : List Event} (hk : k % 4 = 0) (hlt : k < s.cfg.bufBytes)
    (hag : s.agenda = .hostRead (BitVec.ofNat 18 (0x10000 + k)) :: rest) :
    step s = .next { s with agenda := rest, replies := .data (Memory.loadWord s.din k) :: s.replies } :=
  step_read_located hag (locate_din s.cfg hk hlt)

/-- Settles O26. -/
theorem dinWriteReadsBack : Obligations.DinWriteReadsBack := by
  intro s k v rest hidle hwf hk hlt hag
  refine ⟨_, run_two (step_write_din hidle hk hlt hag) (step_read_din hk hlt rfl), ?_, Memory.read_storeWord hwf k v⟩
  rw [Memory.loadWord_storeWord hwf]

end Sys2Proof.Machine
end

section
/-! PROOFS. What a host read returns at every mapped address (R53, R55), row by row of the map (R51). -/

namespace Sys2Proof.Machine

/-- R55: a read of a word of a row of the map. -/
theorem step_read_row {s : State} {rest : List Event} (el : Element) (base bytes : Nat)
    (hr : { el := el, base := base, bytes := bytes } ∈ regions s.cfg) {k : Nat} (hk : k % 4 = 0) (hlt : k < bytes)
    (hag : s.agenda = .hostRead (BitVec.ofNat 18 (base + k)) :: rest) :
    step s = .next { s with agenda := rest, replies := .data (s.readElement el k) :: s.replies } :=
  step_read_located hag (locate_of_mem hr hk hlt)

/-- R55: a read of a scalar register. -/
theorem step_read_scalar {s : State} {rest : List Event} (el : Element) (base : Nat)
    (hr : { el := el, base := base, bytes := 4 } ∈ regions s.cfg)
    (hag : s.agenda = .hostRead (BitVec.ofNat 18 base) :: rest) :
    step s = .next { s with agenda := rest, replies := .data (s.readElement el 0) :: s.replies } :=
  step_read_row el base 4 hr rfl (by omega) hag

/-- Settles O20. -/
theorem readsShowTheElements : Obligations.ReadsShowTheElements := by
  intro s rest
  refine ⟨⟨?_, ?_, ?_, ?_, ?_, ?_, ?_, ?_, ?_, ?_⟩, fun k hk => ⟨fun hlt => ?_, fun hlt => ⟨?_, ?_, ?_, ?_, ?_, ?_⟩,
    fun hlt => ⟨?_, ?_⟩⟩⟩
  · exact step_read_scalar .id 0x00 (by simp [regions])
  · exact step_read_scalar .ctrl 0x04 (by simp [regions])
  · exact step_read_scalar .status 0x08 (by simp [regions])
  · exact step_read_scalar .cmd 0x0C (by simp [regions])
  · exact step_read_scalar .outlen 0x10 (by simp [regions])
  · exact step_read_scalar .maclen 0x14 (by simp [regions])
  · exact step_read_scalar .crc16 0x18 (by simp [regions])
  · exact step_read_scalar .crc32 0x1C (by simp [regions])
  · exact step_read_scalar .ctxs 0x20 (by simp [regions])
  · exact step_read_scalar .ctxx 0x24 (by simp [regions])
  · exact step_read_row .keyin 0x40 24 (by simp [regions]) hk hlt
  · exact step_read_row (.iv .s) 0x60 16 (by simp [regions]) hk hlt
  · exact step_read_row (.iv .x) 0x70 16 (by simp [regions]) hk hlt
  · exact step_read_row .k1 0x80 16 (by simp [regions]) hk hlt
  · exact step_read_row .k2 0x90 16 (by simp [regions]) hk hlt
  · exact step_read_row .mac 0xA0 16 (by simp [regions]) hk hlt
  · exact step_read_row .expect 0xB0 16 (by simp [regions]) hk hlt
  · exact step_read_row .din 0x10000 s.cfg.bufBytes (by simp [regions]) hk hlt
  · exact step_read_row .dout 0x20000 s.cfg.bufBytes (by simp [regions]) hk hlt

end Sys2Proof.Machine
end

section
/-! PROOFS. The interleaving of the agents (R64, R258): the busy window is closed to the host, and every command
completes. -/

namespace Sys2Proof.Machine

/-! ### The busy window (R64, R66, R69) -/

/-- R64: a step of the host that is no soft reset. -/
def Event.hostKeepsCommand (e : Event) : Prop :=
  (∃ a, e = .hostRead a) ∨ ∃ a v, e = .hostWrite a v ∧ ¬(a = 0x00004 ∧ v.getLsbD 0 = true)

/-- R62: a read changes nothing but the answers. -/
theorem State.hostRead_inWindow (s : State) (a : Addr) :
    ∃ rs, s.hostRead a = s.inWindow s.wib s.ieDone s.ieErr s.agenda rs := by
  cases hloc : locate s.cfg a with
  | error e => exact ⟨_, State.hostRead_of_error hloc⟩
  | ok p => exact ⟨_, State.hostRead_of_ok hloc⟩

/-- R59, R69: while busy a write that is no soft reset changes nothing but WIB or the enables, and the answers. -/
theorem State.hostWrite_inWindow {s : State} {a : Addr} {v : Word} (hbusy : s.busy = true)
    (hv : ¬(a = 0x00004 ∧ v.getLsbD 0 = true)) :
    ∃ w d e rs, s.hostWrite a v = s.inWindow w d e s.agenda rs := by
  cases hloc : locate s.cfg a with
  | error e => exact ⟨_, _, _, _, State.hostWrite_of_error hloc⟩
  | ok p =>
    obtain ⟨el, k⟩ := p
    rw [State.hostWrite_of_ok hloc]
    by_cases hel : el = .ctrl
    · subst hel
      have hbit : v.getLsbD 0 = false := by
        simpa using fun h => hv ⟨eq_of_locate_ctrl hloc, h⟩
      rw [State.writeMapped_ctrl, State.writeCtrl_enables hbit]
      exact ⟨s.wib, v.getLsbD 1, v.getLsbD 2, _, rfl⟩
    · rw [State.writeMapped_busy hbusy hel]
      exact ⟨true, s.ieDone, s.ieErr, _, rfl⟩

/-- R64(d): one step of the host in the busy window. -/
theorem step_inWindow {s : State} {ev : Event} {rest : List Event} (hbusy : s.busy = true)
    (hag : s.agenda = ev :: rest) (hev : ev.hostKeepsCommand) :
    ∃ w d e rs, step s = .next (s.inWindow w d e rest rs) := by
  obtain ⟨a, rfl⟩ | ⟨a, v, rfl, hv⟩ := hev
  · obtain ⟨rs, h⟩ := State.hostRead_inWindow { s with agenda := rest } a
    exact ⟨_, _, _, rs, by rw [step_hostRead hag, h]; rfl⟩
  · obtain ⟨w, d, e, rs, h⟩ := State.hostWrite_inWindow (s := { s with agenda := rest }) hbusy hv
    exact ⟨w, d, e, rs, by rw [step_hostWrite hag, h]; rfl⟩

/-- R64(d): any number of steps of the host in the busy window. -/
theorem run_inWindow {s : State} {evs rest : List Event} (hbusy : s.busy = true) (hag : s.agenda = evs ++ rest)
    (hevs : ∀ ev ∈ evs, ev.hostKeepsCommand) :
    ∃ w d e rs, core.run evs.length s = .next (s.inWindow w d e rest rs) := by
  induction evs generalizing s with
  | nil =>
    rw [List.nil_append] at hag
    subst hag
    exact ⟨s.wib, s.ieDone, s.ieErr, s.replies, rfl⟩
  | cons ev evs ih =>
    rw [List.cons_append] at hag
    obtain ⟨hev, htail⟩ := List.forall_mem_cons.mp hevs
    obtain ⟨w, d, e, rs, hstep⟩ := step_inWindow hbusy hag hev
    obtain ⟨w', d', e', rs', hrun⟩ := ih (s := s.inWindow w d e (evs ++ rest) rs) hbusy rfl htail
    exact ⟨w', d', e', rs', by rw [List.length_cons, run_succ _ hstep, hrun]; rfl⟩

/-- Settles O14, by induction on the events of the window. -/
theorem busyWindowIsIsolated : Obligations.BusyWindowIsIsolated :=
  fun _ _ _ hbusy hag hevs => run_inWindow hbusy hag hevs

/-! ### Completion (R64, R111, R258) -/

/-- R111: a completed command is no longer in flight. -/
theorem exec_busy {i : Instr} {s t : State} (h : exec i s = .next t) : t.busy = false := by
  obtain ⟨e, rfl⟩ | ⟨-, rfl | ⟨e, rfl⟩⟩ := exec_cases h <;> rfl

theorem exec_agenda {i : Instr} {s t : State} (h : exec i s = .next t) : t.agenda = s.agenda := by
  obtain ⟨-, -, -, -, -, hag, -⟩ := commandWrites_host s i
  exact exec_keeps State.agenda h fun _ => hag

/-- R111, R231: after the engine's turn the machine is idle, and nothing scheduled is lost. -/
theorem State.engineTurn_completes (s : State) :
    ∃ t, s.engineTurn = .next t ∧ t.busy = false ∧ t.agenda = s.agenda := by
  cases hbusy : s.busy with
  | false => exact ⟨s, State.engineTurn_idle hbusy, hbusy, rfl⟩
  | true =>
    cases hd : decode s.cmdCur with
    | error e => exact ⟨_, State.engineTurn_illegal hbusy hd, rfl, rfl⟩
    | ok i =>
      obtain ⟨t, ht⟩ := exec_answers_next i s
      exact ⟨t, (State.engineTurn_legal hbusy hd).trans ht, exec_busy ht, exec_agenda ht⟩

theorem State.hostRead_agenda (s : State) (a : Addr) : (s.hostRead a).agenda = s.agenda := by
  obtain ⟨rs, h⟩ := s.hostRead_inWindow a
  rw [h]
  rfl

theorem State.hostWrite_agenda (s : State) (a : Addr) (v : Word) : (s.hostWrite a v).agenda = s.agenda := by
  cases hloc : locate s.cfg a with
  | error e => rw [State.hostWrite_of_error hloc, State.reply_agenda]
  | ok p =>
    obtain ⟨el, k⟩ := p
    obtain ⟨hag, -⟩ := s.writeMapped_outside el k v
    rw [State.hostWrite_of_ok hloc, State.reply_agenda, hag]

/-- R64: every scheduled event is one step, which schedules nothing more. -/
theorem exists_step_cons {s : State} {ev : Event} {rest : List Event} (hag : s.agenda = ev :: rest) :
    ∃ t, step s = .next t ∧ t.agenda = rest := by
  cases ev with
  | hostRead a => exact ⟨_, step_hostRead hag, State.hostRead_agenda _ a⟩
  | hostWrite a v => exact ⟨_, step_hostWrite hag, State.hostWrite_agenda _ a v⟩
  | engine =>
    obtain ⟨t, ht, -, hrest⟩ := State.engineTurn_completes { s with agenda := rest }
    exact ⟨t, (step_engine hag).trans ht, hrest⟩
  | rst => exact ⟨_, step_rst hag, rfl⟩

/-- The scheduled events are used up in as many steps. -/
theorem exists_run_agenda {s : State} {evs : List Event} (hag : s.agenda = evs) :
    ∃ t, core.run evs.length s = .next t ∧ t.agenda = [] := by
  induction evs generalizing s with
  | nil => exact ⟨s, rfl, hag⟩
  | cons ev evs ih =>
    obtain ⟨u, hstep, hu⟩ := exists_step_cons hag
    obtain ⟨t, hrun, ht⟩ := ih hu
    exact ⟨t, by rw [List.length_cons, run_succ _ hstep, hrun], ht⟩

/-- Settles O15: with the scheduled events used up the next step is the engine's turn. -/
theorem commandsCompleteInBoundedSteps : Obligations.CommandsCompleteInBoundedSteps := by
  intro s
  obtain ⟨u, hrun, hu⟩ := exists_run_agenda (s := s) rfl
  obtain ⟨t, hturn, hbusy, hag⟩ := u.engineTurn_completes
  refine ⟨t, ?_, hbusy, hag.trans hu⟩
  rw [run_add _ 1 hrun, run_succ 0 ((step_empty hu).trans hturn), run_zero]

end Sys2Proof.Machine
end

section
/-! PROOFS. The encoding (R80 to R90): the fields of a word, the opcode table, and the two round trips between commands
and words. -/

namespace Sys2Proof

open Sys2Proof.Machine

/-! ### A word by its fields (R81) -/

/-- R81: a word is its `ARG`, its flags and its opcode, one after the other. -/
theorem word_eq_append (w : Word) : w = w.extractLsb' 16 16 ++ w.extractLsb' 8 8 ++ fieldOp w := by
  apply BitVec.eq_of_getLsbD_eq
  intro i hi
  simp only [fieldOp, BitVec.getLsbD_append, BitVec.getLsbD_extractLsb']
  grind

theorem word_eq_iff_fields {a b : Word} :
    a = b ↔ fieldOp a = fieldOp b ∧ a.extractLsb' 8 8 = b.extractLsb' 8 8 ∧
      a.extractLsb' 16 16 = b.extractLsb' 16 16 := by
  constructor
  · rintro rfl
    exact ⟨rfl, rfl, rfl⟩
  · rintro ⟨hop, hflags, harg⟩
    rw [word_eq_append a, word_eq_append b, hop, hflags, harg]

section
variable (op : BitVec 8) (ctx uiv ziv pad cont vfy app : Bool) (arg : BitVec 16)

/-- R81: the flags of an encoded word, from `CTX` upward; the bit after `APP` is the reserved one. -/
theorem packWord_flag {j : Nat} (hj : j < 8) :
    (packWord op ctx uiv ziv pad cont vfy app arg).getLsbD (8 + j) =
      [ctx, uiv, ziv, pad, cont, vfy, app].getD j false := by
  simp only [packWord, BitVec.getLsbD_append]
  interval_cases j <;> simp

@[simp] theorem fieldCtx_packWord (c : CtxSel) :
    fieldCtx (packWord op c.bit uiv ziv pad cont vfy app arg) = c := by
  have h := packWord_flag op c.bit uiv ziv pad cont vfy app arg (j := 0) (by decide)
  rw [fieldCtx, h]
  cases c <;> rfl

@[simp] theorem fieldUiv_packWord : fieldUiv (packWord op ctx uiv ziv pad cont vfy app arg) = uiv :=
  packWord_flag (j := 1) (hj := by decide) ..

@[simp] theorem fieldZiv_packWord : fieldZiv (packWord op ctx uiv ziv pad cont vfy app arg) = ziv :=
  packWord_flag (j := 2) (hj := by decide) ..

@[simp] theorem fieldPad_packWord : fieldPad (packWord op ctx uiv ziv pad cont vfy app arg) = pad :=
  packWord_flag (j := 3) (hj := by decide) ..

@[simp] theorem fieldCont_packWord : fieldCont (packWord op ctx uiv ziv pad cont vfy app arg) = cont :=
  packWord_flag (j := 4) (hj := by decide) ..

@[simp] theorem fieldVfy_packWord : fieldVfy (packWord op ctx uiv ziv pad cont vfy app arg) = vfy :=
  packWord_flag (j := 5) (hj := by decide) ..

@[simp] theorem fieldApp_packWord : fieldApp (packWord op ctx uiv ziv pad cont vfy app arg) = app :=
  packWord_flag (j := 6) (hj := by decide) ..

theorem fieldLen_packWord : fieldLen (packWord op ctx uiv ziv pad cont vfy app arg) = arg.toNat := by
  rw [fieldLen, packWord_hi]

end

/-- R83: a byte count that fits `ARG` is read back. -/
@[simp] theorem fieldLen_packWord_ofNat (op : BitVec 8) (ctx uiv ziv pad cont vfy app : Bool) {len : Nat}
    (h : lenFits len = true) :
    fieldLen (packWord op ctx uiv ziv pad cont vfy app (BitVec.ofNat 16 len)) = len := by
  have hlt : len < 65536 := of_decide_eq_true h
  rw [fieldLen_packWord, BitVec.toNat_ofNat, Nat.mod_eq_of_lt hlt]

/-- R22, R83: the key type of an encoded word is read back. -/
@[simp] theorem fieldKt_packWord (op : BitVec 8) (ctx uiv ziv pad cont vfy app : Bool) (kt : KeyType) :
    fieldKt (packWord op ctx uiv ziv pad cont vfy app (kt.code.setWidth 16)) = kt := by
  have h : (packWord op ctx uiv ziv pad cont vfy app (kt.code.setWidth 16)).extractLsb' 16 2 = kt.code := by
    apply BitVec.eq_of_getLsbD_eq
    intro i hi
    have hbit := congrArg (fun a => a.getLsbD i) (packWord_hi op ctx uiv ziv pad cont vfy app (kt.code.setWidth 16))
    simpa [hi, show i < 16 by omega] using hbit
  rw [fieldKt, h]
  cases kt <;> rfl

@[simp] theorem bit_fieldCtx (cw : Word) : (fieldCtx cw).bit = cw.getLsbD 8 := by
  unfold fieldCtx
  cases cw.getLsbD 8 <;> rfl

/-- R81: a word whose reserved bit is 0 is packed from its own fields. -/
theorem packWord_fields {cw : Word} (h : cw.getLsbD 15 = false) :
    packWord (fieldOp cw) (fieldCtx cw).bit (fieldUiv cw) (fieldZiv cw) (fieldPad cw) (fieldCont cw) (fieldVfy cw)
      (fieldApp cw) (cw.extractLsb' 16 16) = cw := by
  refine word_eq_iff_fields.mpr ⟨Laws.MatchesRow.fieldOp_packWord .., ?_, packWord_hi ..⟩
  apply BitVec.eq_of_getLsbD_eq
  intro j hj
  rw [BitVec.getLsbD_extractLsb', BitVec.getLsbD_extractLsb', packWord_flag (hj := hj), bit_fieldCtx]
  congr 1
  obtain rfl | hflag := Nat.eq_or_lt_of_le (Nat.le_of_lt_succ hj)
  · exact h.symm
  · interval_cases j <;> rfl

/-! ### The opcode table (R84, R85) -/

/-- R85: how the mask and match of a row are made from its opcode, its allowed flags and its `ARG` range, which is all
values of some number of low bits. -/
def Row.regular (r : Row) : Prop :=
  (fieldOp r.mask = 0xFF ∧ r.mask.extractLsb' 8 8 = ~~~r.allowed ∧
    r.mask.extractLsb' 16 16 = ~~~BitVec.ofNat 16 r.argMax) ∧
  (fieldOp r.pattern = r.op ∧ r.pattern.extractLsb' 8 8 = 0 ∧ r.pattern.extractLsb' 16 16 = 0) ∧
  ∃ k : Fin 17, r.argMax = 2 ^ k.val - 1

theorem rows_regular : ∀ r ∈ rows, r.regular := by
  unfold Row.regular
  decide

/-- A word has no bit from bit `k` upward exactly when it is below the `k`-th power of two. -/
theorem and_not_lowMask_eq_zero_iff (x : BitVec 16) (k : Nat) :
    x &&& ~~~BitVec.ofNat 16 (2 ^ k - 1) = 0 ↔ x.toNat ≤ 2 ^ k - 1 := by
  have hbit (i : Nat) : (x &&& ~~~BitVec.ofNat 16 (2 ^ k - 1)).getLsbD i = (x.getLsbD i && !decide (i < k)) := by
    rcases Nat.lt_or_ge i 16 with hi | hi
    · simp only [BitVec.getLsbD_and, BitVec.getLsbD_not, BitVec.getLsbD_ofNat, Nat.testBit_two_pow_sub_one, hi,
        decide_true, Bool.true_and]
    · simp [BitVec.getLsbD_of_ge x i hi]
  rw [Nat.le_sub_one_iff_lt (Nat.two_pow_pos k)]
  constructor
  · intro h
    refine Nat.lt_pow_two_of_testBit _ fun i hi => ?_
    have := hbit i
    rw [h] at this
    simpa [Nat.not_lt.mpr hi, BitVec.testBit_toNat] using this.symm
  · intro h
    apply BitVec.eq_of_getLsbD_eq
    intro i hi
    rw [hbit]
    rcases Nat.lt_or_ge i k with hik | hki
    · simp [hik]
    · have := Nat.testBit_lt_two_pow (h.trans_le (Nat.pow_le_pow_right (by decide) hki))
      simp [BitVec.getLsbD, this]

/-- R85: the two wordings of a row: mask and match, or opcode, allowed flags and range. -/
theorem Row.fits_eq_legal {r : Row} (hr : r ∈ rows) (cw : Word) : r.fits cw = r.legal cw := by
  obtain ⟨⟨hmop, hmflags, hmarg⟩, ⟨hpop, hpflags, hparg⟩, k, hk⟩ := rows_regular r hr
  have hop : fieldOp (cw &&& r.mask) = fieldOp cw := by
    have hand : fieldOp (cw &&& r.mask) = fieldOp cw &&& fieldOp r.mask := BitVec.extractLsb'_and
    rw [hand, hmop]
    exact BitVec.and_allOnes
  have harg : cw.extractLsb' 16 16 &&& ~~~BitVec.ofNat 16 r.argMax = 0 ↔ fieldLen cw ≤ r.argMax := by
    rw [hk]
    exact and_not_lowMask_eq_zero_iff _ k
  rw [Bool.eq_iff_iff, Row.fits, Row.legal, beq_iff_eq, word_eq_iff_fields]
  simp only [hop, BitVec.extractLsb'_and, hmflags, hmarg, hpop, hpflags, hparg, harg, Bool.and_eq_true, beq_iff_eq,
    decide_eq_true_eq, and_assoc]

theorem Row.legal_iff (r : Row) (cw : Word) :
    r.legal cw = true ↔ fieldOp cw = r.op ∧ flagsAmong cw r.allowed ∧ fieldLen cw ≤ r.argMax := by
  simp only [Row.legal, flagsAmong, Bool.and_eq_true, beq_iff_eq, decide_eq_true_eq, and_assoc]

theorem fieldOp_of_fits {r : Row} (hr : r ∈ rows) {cw : Word} (h : r.fits cw = true) : fieldOp cw = r.op := by
  rw [Row.fits_eq_legal hr, Row.legal_iff] at h
  exact h.1

/-- R84: no two rows have one opcode. -/
theorem rows_op_nodup : (rows.map Row.op).Nodup := by decide

theorem row_eq_of_op {p q : Row} (hp : p ∈ rows) (hq : q ∈ rows) (h : p.op = q.op) : p = q :=
  List.inj_on_of_nodup_map rows_op_nodup hp hq h

/-! ### What decodes (R85, R90) -/

/-- R90: the decoder answers the command of the one row the word fits. -/
theorem decode_eq_ok_iff {cw : Word} {i : Instr} :
    decode cw = .ok i ↔ ∃ r : Row, r ∈ rows ∧ r.fits cw = true ∧ r.build cw = i := by
  unfold decode
  cases hf : rows.find? (fun r => r.fits cw) with
  | none =>
    have hnone := List.find?_eq_none.mp hf
    simp only [reduceCtorEq, false_iff, not_exists, not_and]
    exact fun r hr hfit => absurd hfit (hnone r hr)
  | some p =>
    have hp := List.mem_of_find?_eq_some hf
    have hpfits : p.fits cw = true := List.find?_some (p := fun r : Row => r.fits cw) hf
    simp only [Except.ok.injEq]
    constructor
    · exact fun hi => ⟨p, hp, hpfits, hi⟩
    · rintro ⟨r, hr, hrfits, rfl⟩
      have hop : p.op = r.op := (fieldOp_of_fits hp hpfits).symm.trans (fieldOp_of_fits hr hrfits)
      rw [row_eq_of_op hp hr hop]

/-- R83: `ARG` is 16 bits, so a row whose range is all of them asks nothing of it. -/
theorem fieldLen_le (cw : Word) : fieldLen cw ≤ 65535 := Nat.le_of_lt_succ (BitVec.isLt _)

theorem legalWord_iff_exists_row (cw : Word) : legalWord cw ↔ ∃ r ∈ rows, r.legal cw = true := by
  simp only [legalWord, Row.legal_iff, rows, List.exists_mem_cons_iff, List.not_mem_nil, false_and, exists_false,
    or_false, fieldLen_le, and_true, Nat.le_zero]

/-- R85: what decodes is what is legal. -/
theorem exists_decode_iff_legalWord (cw : Word) : (∃ i, decode cw = .ok i) ↔ legalWord cw := by
  simp only [decode_eq_ok_iff, legalWord_iff_exists_row]
  constructor
  · rintro ⟨i, r, hr, hfits, -⟩
    exact ⟨r, hr, Row.fits_eq_legal hr cw ▸ hfits⟩
  · rintro ⟨r, hr, hlegal⟩
    exact ⟨r.build cw, r, hr, (Row.fits_eq_legal hr cw).trans hlegal, rfl⟩

/-- Settles O3: a row's mask covers the opcode, and no two rows have one opcode. -/
theorem legalWordsDecode : Obligations.LegalWordsDecode := by
  refine ⟨exists_decode_iff_legalWord, (List.pairwise_map.mp rows_op_nodup).imp_of_mem ?_⟩
  rintro p q hp hq hne cw ⟨hpfits, hqfits⟩
  exact hne ((fieldOp_of_fits hp hpfits).symm.trans (fieldOp_of_fits hq hqfits))

/-! ### From a command to its word and back (R82, R90) -/

/-- R84: the row of a command. -/
def Instr.row : Instr → Row
  | .nop => rows[0]
  | .clrctx _ => rows[1]
  | .loadkey _ _ => rows[2]
  | .ecbEnc _ _ => rows[3]
  | .ecbDec _ _ => rows[4]
  | .cbcEnc _ _ _ _ _ => rows[5]
  | .cbcDec _ _ _ _ => rows[6]
  | .cbcMac _ _ _ _ _ => rows[7]
  | .subk _ => rows[8]
  | .cmac _ _ _ _ _ => rows[9]
  | .crc16 _ _ _ => rows[10]
  | .crc32 _ _ _ => rows[11]

theorem Instr.row_mem (i : Instr) : i.row ∈ rows := by
  cases i <;> exact List.getElem_mem _

theorem fieldOp_encode (i : Instr) : fieldOp (encode i) = i.row.op := by
  cases i <;> exact Laws.MatchesRow.fieldOp_packWord ..

/-- R85: every command's word fits a row. -/
theorem encode_matchesRow (i : Instr) : Laws.MatchesRow.Statement i :=
  match i with
  | .nop => Laws.MatchesRow.nop
  | .clrctx c => Laws.MatchesRow.clrctx c
  | .loadkey c kt => Laws.MatchesRow.loadkey c kt
  | .ecbEnc c len => Laws.MatchesRow.ecbEnc c len
  | .ecbDec c len => Laws.MatchesRow.ecbDec c len
  | .cbcEnc c uiv ziv pad len => Laws.MatchesRow.cbcEnc c uiv ziv pad len
  | .cbcDec c uiv ziv len => Laws.MatchesRow.cbcDec c uiv ziv len
  | .cbcMac c uiv ziv pad len => Laws.MatchesRow.cbcMac c uiv ziv pad len
  | .subk c => Laws.MatchesRow.subk c
  | .cmac c uiv ziv vfy len => Laws.MatchesRow.cmac c uiv ziv vfy len
  | .crc16 cont app len => Laws.MatchesRow.crc16 cont app len
  | .crc32 cont app len => Laws.MatchesRow.crc32 cont app len

theorem Instr.row_fits_encode (i : Instr) : i.row.fits (encode i) = true := by
  obtain ⟨r, hr, hfits, hop⟩ := encode_matchesRow i
  rwa [row_eq_of_op i.row_mem hr ((fieldOp_encode i).symm.trans hop)]

/-- R82: the fields a row reads from a command's word are the command's operands. -/
theorem Instr.row_build_encode {i : Instr} (h : i.wellFormed = true) : i.row.build (encode i) = i := by
  cases i <;> simp only [Instr.wellFormed] at h <;> simp [Instr.row, rows, encode, h]

/-- Settles O1: the command's word fits the command's row, which reads the operands back. -/
theorem decodeOfEncode : Obligations.DecodeOfEncode := fun i hwf =>
  decode_eq_ok_iff.mpr ⟨i.row, i.row_mem, i.row_fits_encode, Instr.row_build_encode hwf⟩

/-- R83: `ARG` as a row with a given range reads it: not at all, as a key type, or as a byte count. -/
def readArg (argMax : Nat) (cw : Word) : BitVec 16 :=
  if argMax = 0 then 0 else if argMax = 3 then (fieldKt cw).code.setWidth 16 else BitVec.ofNat 16 (fieldLen cw)

/-- R84, R85: encoding what a row reads from a word keeps the flags the row allows and the `ARG` it reads. -/
theorem encode_build_eq_packWord {r : Row} (hr : r ∈ rows) (cw : Word) :
    encode (r.build cw) =
      packWord r.op (r.allowed.getLsbD 0 && (fieldCtx cw).bit) (r.allowed.getLsbD 1 && fieldUiv cw)
        (r.allowed.getLsbD 2 && fieldZiv cw) (r.allowed.getLsbD 3 && fieldPad cw)
        (r.allowed.getLsbD 4 && fieldCont cw) (r.allowed.getLsbD 5 && fieldVfy cw)
        (r.allowed.getLsbD 6 && fieldApp cw) (readArg r.argMax cw) := by
  revert r
  simp [rows, encode, readArg]

/-- R85: masking a word's flags with the allowed ones drops none that is set. -/
theorem and_flag_of_flagsAmong {cw : Word} {allowed : BitVec 8} (h : flagsAmong cw allowed) {j : Nat} (hj : j < 8) :
    (allowed.getLsbD j && cw.getLsbD (8 + j)) = cw.getLsbD (8 + j) := by
  have hbit := congrArg (fun f => f.getLsbD j) h
  rw [BitVec.getLsbD_and, BitVec.getLsbD_not, BitVec.getLsbD_extractLsb'] at hbit
  exact Bool.and_eq_right_iff_imp.mpr (by simpa [hj] using hbit)

/-- R85: an `ARG` in the row's range is read whole. -/
theorem readArg_of_le {argMax : Nat} {cw : Word} (h : fieldLen cw ≤ argMax) :
    readArg argMax cw = cw.extractLsb' 16 16 := by
  have hlen : BitVec.ofNat 16 (fieldLen cw) = cw.extractLsb' 16 16 := BitVec.ofNat_toNat ..
  unfold readArg
  split_ifs with hzero hthree
  · have hnone : fieldLen cw = 0 := Nat.le_zero.mp (hzero ▸ h)
    rw [← hlen, hnone]
    rfl
  · have hle : fieldLen cw ≤ 3 := hthree ▸ h
    have hlow : (cw.extractLsb' 16 2).toNat = fieldLen cw := by
      simp only [fieldLen, BitVec.extractLsb'_toNat] at hle ⊢
      omega
    rw [← hlen, fieldKt, hlow]
    interval_cases fieldLen cw <;> rfl
  · exact hlen

/-- R84: no row allows the reserved bit. -/
theorem allowed_reserved : ∀ r ∈ rows, r.allowed.getLsbD 7 = false := by decide

/-- R81, R85: a legal word holds nothing but the operands its row reads. -/
theorem encode_build {r : Row} (hr : r ∈ rows) {cw : Word} (h : r.legal cw = true) : encode (r.build cw) = cw := by
  obtain ⟨hop, hflags, harg⟩ := (r.legal_iff cw).mp h
  have hkeep {j : Nat} (hj : j < 8) := and_flag_of_flagsAmong hflags hj
  have hreserved : cw.getLsbD 15 = false := by
    have := hkeep (j := 7) (by decide)
    rwa [allowed_reserved r hr, Bool.false_and, eq_comm] at this
  have hctx : (r.allowed.getLsbD 0 && (fieldCtx cw).bit) = (fieldCtx cw).bit := by
    rw [bit_fieldCtx]
    exact hkeep (j := 0) (by decide)
  have huiv : (r.allowed.getLsbD 1 && fieldUiv cw) = fieldUiv cw := hkeep (by decide)
  have hziv : (r.allowed.getLsbD 2 && fieldZiv cw) = fieldZiv cw := hkeep (by decide)
  have hpad : (r.allowed.getLsbD 3 && fieldPad cw) = fieldPad cw := hkeep (by decide)
  have hcont : (r.allowed.getLsbD 4 && fieldCont cw) = fieldCont cw := hkeep (by decide)
  have hvfy : (r.allowed.getLsbD 5 && fieldVfy cw) = fieldVfy cw := hkeep (by decide)
  have happ : (r.allowed.getLsbD 6 && fieldApp cw) = fieldApp cw := hkeep (by decide)
  rw [encode_build_eq_packWord hr, hctx, huiv, hziv, hpad, hcont, hvfy, happ, readArg_of_le harg, ← hop,
    packWord_fields hreserved]

/-- R83: every command the decoder builds is well formed. -/
theorem wellFormed_build {r : Row} (hr : r ∈ rows) (cw : Word) : (r.build cw).wellFormed = true := by
  have hlen : lenFits (fieldLen cw) = true := decide_eq_true (BitVec.isLt _)
  revert r
  simp [rows, Instr.wellFormed, hlen]

/-- Settles O2: the word is legal in the row it was decoded by, so that row dropped no bit of it. -/
theorem encodeOfDecode : Obligations.EncodeOfDecode := by
  intro cw i hd
  obtain ⟨r, hr, hfits, rfl⟩ := decode_eq_ok_iff.mp hd
  exact ⟨wellFormed_build hr cw, encode_build hr (Row.fits_eq_legal hr cw ▸ hfits)⟩

/-! ### Illegal words and written-out words (R86, R87) -/

theorem exists_decode_error {cw : Word} (h : ¬legalWord cw) : ∃ e, decode cw = .error e := by
  cases hd : decode cw with
  | error e => exact ⟨e, rfl⟩
  | ok i => exact absurd ((exists_decode_iff_legalWord cw).mp ⟨i, hd⟩) h

/-- Settles O5: the host's write is accepted, and the engine's turn finds no command. -/
theorem illegalWordOnlyRecordsError : Obligations.IllegalWordOnlyRecordsError := by
  intro s cw rest hillegal hidle hag
  obtain ⟨e, he⟩ := exists_decode_error hillegal
  refine run_two (step_write_idle hidle hag (locate_cmd _)) ?_
  rw [step_engine rfl, State.engineTurn_illegal rfl he]
  rfl

theorem decodeTableWord_encode {i : Instr} (h : i.wellFormed = true) :
    decodeTableWord 32 (encode i).toNat = some i := by
  have hw : BitVec.ofNat 32 ((encode i).toNat % 2 ^ 32) = encode i := by
    rw [Nat.mod_eq_of_lt (BitVec.isLt _), BitVec.ofNat_toNat, BitVec.setWidth_eq]
  rw [decodeTableWord, hw, decodeOfEncode i h]

/-- Settles O4: the words are what the encoder answers for these commands. -/
theorem decodeWrittenWords : Obligations.DecodeWrittenWords :=
  ⟨decodeTableWord_encode (i := .nop) rfl, decodeTableWord_encode (i := .loadkey .x .tdes3) rfl,
    decodeTableWord_encode (i := .ecbDec .x 32) rfl, decodeTableWord_encode (i := .cbcEnc .s true false true 24) rfl,
    decodeTableWord_encode (i := .cmac .s true false true 16) rfl,
    decodeTableWord_encode (i := .crc32 true true 5) rfl⟩

end Sys2Proof
end

section
/-! PROOFS. The sequencer and the context commands (R64, R110 to R114, R231). -/

namespace Sys2Proof.Machine

/-! ### Steps of the machine (R64, R110, R111, R231) -/

/-- Settles O6. -/
theorem stepRunsDecodedCommand : Obligations.StepRunsDecodedCommand := by
  intro s i rest hbusy hd
  refine ⟨fun hag => ?_, fun hag => ?_⟩
  · rw [step_empty hag, State.engineTurn_legal hbusy hd]
  · rw [step_engine hag, State.engineTurn_legal (s := { s with agenda := rest }) hbusy hd]

/-- R64: the machine has a step for every agenda. -/
theorem exists_step (s : State) : ∃ t, step s = .next t := by
  cases hag : s.agenda with
  | nil =>
    obtain ⟨t, ht, -, -⟩ := s.engineTurn_completes
    exact ⟨t, (step_empty hag).trans ht⟩
  | cons ev rest =>
    obtain ⟨t, ht, -⟩ := exists_step_cons hag
    exact ⟨t, ht⟩

/-- Settles O7. -/
theorem everyStepAnswersNext : Obligations.EveryStepAnswersNext := by
  refine ⟨exists_step, fun s hidle => ⟨fun hag => ?_, fun rest hag => ?_⟩⟩
  · rw [step_empty hag, State.engineTurn_idle hidle]
  · rw [step_engine hag, State.engineTurn_idle (s := { s with agenda := rest }) hidle]

theorem State.writeElement_cmd (s : State) (k : Nat) (cw : Word) : s.writeElement .cmd k cw = s.accept cw := rfl

/-- R42, R110: acceptance clears both flags the interrupt line follows. -/
theorem State.accept_irq (s : State) (cw : Word) : (s.accept cw).irq = false := by
  obtain ⟨-, haccept, -⟩ := interruptFollowsFlags s
  exact haccept cw

/-- Settles O16: idle, the write reaches CMD; busy, CMD is not CTRL. -/
theorem acceptanceStartsCommand : Obligations.AcceptanceStartsCommand := by
  intro s cw rest hag
  refine ⟨fun hidle => ?_, fun hbusy => ?_⟩
  · have hstep := step_write_idle hidle hag (locate_cmd _)
    rw [State.writeElement_cmd] at hstep
    exact ⟨_, hstep, State.accept_irq { s with agenda := rest } cw, rfl⟩
  · have hcmd : Element.cmd ≠ .ctrl := nofun
    rw [step_write_located hag (locate_cmd _), State.writeMapped_busy (s := { s with agenda := rest }) hbusy hcmd]
    rfl

/-! ### NOP, CLRCTX and LOADKEY (R112 to R114) -/

/-- Settles O31. -/
theorem nopResult : Obligations.NopResult := fun s => exec_of_passes (i := .nop) (s := s) rfl rfl

/-- Settles O32. -/
theorem clrctxResult : Obligations.ClrctxResult := fun s =>
  ⟨exec_of_passes (i := .clrctx .s) (s := s) rfl rfl, exec_of_passes (i := .clrctx .x) (s := s) rfl rfl⟩

/-- R22: every key fits the register it is staged in. -/
theorem keyLen_le (kt : KeyType) : keyLen kt ≤ 24 := by cases kt <;> decide

/-- R114: byte by byte, the key LOADKEY makes of the staging register. -/
theorem loadedCtx_key_getD (kt : KeyType) (keyin : Vector Byte 24) (k : Nat) :
    (loadedCtx kt keyin).key.getD k 0 = if k < keyLen kt then keyin.getD k 0 else 0 := by
  have hlen := keyLen_le kt
  rw [loadedCtx, fixBytes_getD]
  by_cases hk : k < keyLen kt
  · have hk' : k < 24 := by omega
    simp [Vector.getD, List.getD, hk, hk']
  · simp [List.getD, hk]

/-- R114: the writes of LOADKEY and the end of the command, as one update. -/
theorem exec_loadkey (c : CtxSel) (kt : KeyType) (s : State) :
    exec (.loadkey c kt) s = .next
      { s.setCtx c (loadedCtx kt s.keyin) with
        keyin := Vector.replicate 24 0, busy := false, done := true } :=
  exec_of_passes (i := .loadkey c kt) (s := s) rfl rfl

/-- Settles O33. -/
theorem loadkeyResult : Obligations.LoadkeyResult := fun s c kt =>
  ⟨(loadedCtx kt s.keyin).key, exec_loadkey c kt s, loadedCtx_key_getD kt s.keyin⟩

end Sys2Proof.Machine
end

section
/-! PROOFS. The results of CBC.ENC and CBC.DEC (R160, R163 to R166): an output followed by the write-back of the IV. -/

namespace Sys2Proof.Machine

/-! ### An output with the write-back of the IV (R34, R164) -/

/-- R164: the write-back as one update of the context, whether or not the chain ran over a block. -/
theorem State.writeBackIv_eq_setCtx (s : State) (c : CtxSel) (uiv : Bool) (n : Nat) (last : Bytes) :
    s.writeBackIv c uiv n last =
      s.setCtx c { s.ctx c with iv := if uiv = true ∧ 0 < n then fixBytes 16 last else (s.ctx c).iv } := by
  rcases Nat.eq_zero_or_pos n with rfl | hn
  · have hsame : s.setCtx c (s.ctx c) = s := by cases c <;> rfl
    simp [State.writeBackIv, hsame]
  · rw [State.writeBackIv_eq s c uiv hn]
    simp [hn]

/-- R164: the block handed on matters only where the chain ran over one. -/
theorem State.writeBackIv_congr {s : State} {c : CtxSel} {uiv : Bool} {n : Nat} {last last' : Bytes}
    (h : 0 < n → last = last') : s.writeBackIv c uiv n last = s.writeBackIv c uiv n last' := by
  rcases Nat.eq_zero_or_pos n with rfl | hn
  · simp [State.writeBackIv]
  · rw [h hn]

/-- R34: an output, a new context and the end of the command, as one update. -/
theorem State.output_setCtx_finish (s : State) (c : CtxSel) (x : Ctx) (out : Bytes) :
    ((s.output out).setCtx c x).finish =
      { s.setCtx c x with
        dout := Memory.writeBytes s.dout 0 out, outlen := BitVec.ofNat 16 out.length
        busy := false, done := true } := by
  cases c <;> simp only [State.setCtx, State.output, State.finish]

/-- R34, R164: the completion of a command that puts `n` bytes into DOUT and writes the IV back. -/
theorem exec_output_writeBackIv {i : Instr} {s : State} {c : CtxSel} {uiv : Bool} {n : Nat} {out last : Bytes}
    (hc : preChecks i s = none) (hv : verifyFails i s = false)
    (hw : commandWrites i s = (s.output out).writeBackIv c uiv n last) (hout : out.length = n)
    (hwf : Memory.wf s.dout) :
    ∃ t, exec i s = .next t ∧
      t = { s.setCtx c { s.ctx c with iv := if uiv = true ∧ 0 < n then fixBytes 16 last else (s.ctx c).iv } with
            dout := t.dout, outlen := BitVec.ofNat 16 n, busy := false, done := true } ∧
      (∀ k, k < n → Memory.read t.dout k = out.getD k 0) ∧
      ∀ k, n ≤ k → Memory.read t.dout k = Memory.read s.dout k := by
  have hexec := exec_of_passes hc hv
  rw [hw, State.writeBackIv_eq_setCtx, State.output_setCtx_finish, State.output_ctx, hout] at hexec
  refine ⟨_, hexec, rfl, fun k hk => ?_, fun k hk => ?_⟩
  · rw [Memory.read_writeBytes _ _ hwf, if_pos (by omega), Nat.sub_zero]
  · rw [Memory.read_writeBytes _ _ hwf, if_neg (by omega)]

/-! ### CBC.ENC (R163, R165) -/

/-- R163, R165: a message that may be encrypted is made of whole blocks. -/
theorem State.message_length_mod {s : State} {c : CtxSel} {pad : Bool} {len : Nat}
    (h : pad = true ∨ len % blockSize (s.ctx c).kt = 0) :
    (s.message c pad len).length % blockSize (s.ctx c).kt = 0 := by
  cases pad with
  | false =>
    have hlen : len % blockSize (s.ctx c).kt = 0 := by simpa using h
    simpa [State.message] using hlen
  | true =>
    simp only [State.message, zeroPad, if_true, List.length_append, State.input_length, zeros_length]
    cases (s.ctx c).kt <;> simp only [blockSize] <;> omega

/-- R161, R165: the ciphertext is as long as the message. -/
theorem State.cbcEncChain_length {s : State} {c : CtxSel} {ziv pad : Bool} {len : Nat}
    (h : pad = true ∨ len % blockSize (s.ctx c).kt = 0) :
    (s.cbcEncChain c ziv pad len).1.length = (s.message c pad len).length := by
  rw [State.cbcEncChain, cbcEnc_bytes_length,
    Nat.div_mul_cancel (Nat.dvd_of_mod_eq_zero (State.message_length_mod h))]

/-- R165, R221: with a key and an acceptable length CBC.ENC passes its checks. -/
theorem preChecks_cbcEnc {s : State} {c : CtxSel} (uiv ziv : Bool) {pad : Bool} {len : Nat}
    (hkv : (s.ctx c).kv = true) (hle : len ≤ s.cfg.bufBytes) (h : pad = true ∨ len % blockSize (s.ctx c).kt = 0) :
    preChecks (.cbcEnc c uiv ziv pad len) s = none := by
  refine State.checkKeyed_none.mpr ⟨hkv, hle, ?_⟩
  rcases h with rfl | hlen
  · rfl
  · rw [State.ragged_false.mpr hlen, Bool.and_false]

/-- Settles O36. -/
theorem cbcEncResult : Obligations.CbcEncResult := by
  intro s c uiv ziv pad len hkv hwf hle hpad bs m iv0 r
  have hm : m = s.message c pad len := (s.message_eq c pad len).symm
  have hr : r = s.cbcEncChain c ziv pad len := by
    rw [State.cbcEncChain, ← hm]
    rfl
  rw [hm, hr]
  obtain ⟨t, hexec, ht, hin, hrest⟩ := exec_output_writeBackIv (preChecks_cbcEnc uiv ziv hkv hle hpad) rfl rfl
    (State.cbcEncChain_length hpad) hwf
  exact ⟨t, hexec, ht, State.message_length_le hle c pad, hin, hrest⟩

/-! ### CBC.DEC (R166) -/

/-- R162, R166: the plaintext is as long as the input. -/
theorem State.cbcDecChain_length {s : State} {c : CtxSel} {ziv : Bool} {len : Nat}
    (h : len % blockSize (s.ctx c).kt = 0) : (s.cbcDecChain c ziv len).1.length = len := by
  rw [State.cbcDecChain, cbcDec_bytes_length _ _ (s.startIv_length c ziv), State.input_length,
    Nat.div_mul_cancel (Nat.dvd_of_mod_eq_zero h)]

/-- R54: the last block of a non-empty message of whole blocks. -/
theorem blocks_getLastD {bs : Nat} {m d : Bytes} (hm : 0 < m.length) (h : m.length % bs = 0) :
    (blocks bs m).getLastD d = (m.drop (m.length - bs)).take bs := by
  obtain ⟨q, hq⟩ := Nat.dvd_of_mod_eq_zero h
  have hbs : 0 < bs := Nat.pos_of_ne_zero fun h0 => by rw [h0, Nat.zero_mul] at hq; omega
  obtain ⟨p, rfl⟩ : ∃ p, q = p + 1 :=
    Nat.exists_eq_succ_of_ne_zero fun h0 => by rw [h0, Nat.mul_zero] at hq; omega
  have hcount : m.length / bs = p + 1 := by rw [hq, Nat.mul_div_cancel_left _ hbs]
  have hstart : m.length - bs = p * bs := by rw [hq, Nat.mul_succ, Nat.add_sub_cancel, Nat.mul_comm]
  rw [blocks, hcount, hstart, List.range_succ, List.map_append, List.map_singleton, List.getLastD_concat]

/-- R162, R166: what CBC.DEC hands on is the last block of its input, not of its output. -/
theorem State.cbcDecChain_last {s : State} {c : CtxSel} {ziv : Bool} {len : Nat}
    (h : len % blockSize (s.ctx c).kt = 0) (hpos : 0 < len) :
    (s.cbcDecChain c ziv len).2 =
      Memory.readBytes s.din (len - blockSize (s.ctx c).kt) (blockSize (s.ctx c).kt) := by
  have hle : blockSize (s.ctx c).kt ≤ len := Nat.le_of_dvd hpos (Nat.dvd_of_mod_eq_zero h)
  have hl := s.input_length len
  calc (s.cbcDecChain c ziv len).2
      = (blocks (blockSize (s.ctx c).kt) (s.input len)).getLastD (s.startIv c ziv) := rfl
    _ = ((s.input len).drop (len - blockSize (s.ctx c).kt)).take (blockSize (s.ctx c).kt) := by
        rw [blocks_getLastD (hl.symm ▸ hpos) (hl.symm ▸ h), hl]
    _ = _ := by rw [State.input, Memory.readBytes_drop_take _ (by omega), Nat.zero_add]

/-- Settles O37. -/
theorem cbcDecResult : Obligations.CbcDecResult := fun _ c uiv ziv len hkv hwf hle hlen =>
  exec_output_writeBackIv (i := .cbcDec c uiv ziv len)
    (State.checkKeyed_none.mpr ⟨hkv, hle, State.ragged_false.mpr hlen⟩) rfl
    (State.writeBackIv_congr (State.cbcDecChain_last hlen)) (State.cbcDecChain_length hlen) hwf

end Sys2Proof.Machine
end

section
/-! PROOFS. DES and triple DES (R121 to R133): blocks as numbers, the rounds run backwards, the bits of a key that no
round key depends on, and with them the laws of the block functions of the DES family. -/

namespace Sys2Proof.Machine

/-! ### Byte strings as big-endian numbers (R7) -/

@[simp] theorem be_append_singleton (b : Bytes) (x : Byte) : be (b ++ [x]) = 256 * be b + x.toNat := by simp [be]

theorem be_lt (b : Bytes) : be b < 256 ^ b.length := by
  induction b using List.reverseRecOn with
  | nil => decide
  | append_singleton b x ih =>
    have hx := x.isLt
    rw [be_append_singleton, List.length_append, List.length_singleton, Nat.pow_succ]
    omega

/-- `be_(n+1)(v)`: the last byte is the lowest one, the bytes before it are those of `v / 256`. -/
theorem beBytes_succ (n v : Nat) : beBytes (n + 1) v = beBytes n (v / 256) ++ [BitVec.ofNat 8 v] := by
  simp only [beBytes, byteTable, List.range_succ, List.map_append, List.map_singleton]
  congr 1
  · refine List.map_congr_left fun i hi => ?_
    have hi : i < n := List.mem_range.mp hi
    rw [Nat.div_div_eq_div_mul, ← Nat.pow_succ', show n + 1 - 1 - i = n - 1 - i + 1 by omega]
  · simp

theorem be_beBytes (n v : Nat) : be (beBytes n v) = v % 256 ^ n := by
  induction n generalizing v with
  | zero => simp [beBytes, byteTable, be, Nat.mod_one]
  | succ n ih =>
    rw [beBytes_succ, be_append_singleton, ih, BitVec.toNat_ofNat, show 2 ^ 8 = 256 from rfl, Nat.pow_succ',
      Nat.mod_mul, Nat.add_comm]

theorem beBytes_be (b : Bytes) : beBytes b.length (be b) = b := by
  induction b using List.reverseRecOn with
  | nil => rfl
  | append_singleton b x ih =>
    have hx := x.isLt
    have hdiv : (256 * be b + x.toNat) / 256 = be b := by omega
    have hlow : BitVec.ofNat 8 (256 * be b + x.toNat) = x := by
      apply BitVec.eq_of_toNat_eq
      rw [BitVec.toNat_ofNat]
      omega
    rw [List.length_append, List.length_singleton, beBytes_succ, be_append_singleton, hdiv, ih, hlow]

/-- Bit `q` of byte `p`, both counted from the least significant end. -/
theorem be_testBit (b : Bytes) {p q : Nat} (hp : p < b.length) (hq : q < 8) :
    (be b).testBit (8 * p + q) = (b.getD (b.length - 1 - p) 0).getLsbD q := by
  induction b using List.reverseRecOn generalizing p with
  | nil => simp at hp
  | append_singleton b x ih =>
    have hlen : (b ++ [x]).length - 1 = b.length := by simp
    rw [be_append_singleton, show 256 = 2 ^ 8 from rfl, Nat.testBit_two_pow_mul_add _ x.isLt, hlen]
    cases p with
    | zero =>
      rw [if_pos (by omega), Nat.mul_zero, Nat.zero_add, Nat.sub_zero, List.getD_append_right _ _ _ _ le_rfl,
        Nat.sub_self]
      rfl
    | succ p =>
      have hp : p < b.length := by simpa using hp
      rw [if_neg (by omega), show 8 * (p + 1) + q - 8 = 8 * p + q by omega, ih hp,
        List.getD_append _ _ _ _ (by omega), show b.length - (p + 1) = b.length - 1 - p by omega]

/-! ### Blocks as 64 bits (R121) -/

theorem desBits_desBytes (x : BitVec 64) : desBits (desBytes x) = x := by
  apply BitVec.eq_of_toNat_eq
  have hx := x.isLt
  rw [desBits, desBytes, be_beBytes, BitVec.toNat_ofNat]
  omega

theorem desBytes_desBits {b : Bytes} (hb : b.length = 8) : desBytes (desBits b) = b := by
  have hlt := be_lt b
  rw [hb] at hlt
  rw [desBytes, desBits, BitVec.toNat_ofNat, Nat.mod_eq_of_lt (show be b < 2 ^ 64 from hlt), ← hb, beBytes_be]

/-- R121: bit `j` of byte `i` of a block, both counted from the most significant end. -/
theorem desBits_getMsbD {b : Bytes} (hb : b.length = 8) {i j : Nat} (hi : i < 8) (hj : j < 8) :
    (desBits b).getMsbD (8 * i + j) = (b.getD i 0).getMsbD j := by
  have hbit := be_testBit b (p := 7 - i) (q := 7 - j) (by omega) (by omega)
  rw [hb, show 8 * (7 - i) + (7 - j) = 64 - 1 - (8 * i + j) by omega, show 8 - 1 - (7 - i) = i by omega] at hbit
  have hblock : 8 * i + j < 64 := by omega
  have hlow : 64 - 1 - (8 * i + j) < 64 := by omega
  simp only [BitVec.getMsbD_eq_getLsbD, desBits, BitVec.getLsbD_ofNat, hblock, hlow, hj, decide_true, Bool.true_and]
  exact hbit

/-! ### Permutations (R122, R123) -/

/-- Two tables whose composition sends every index to itself undo each other. -/
theorem permute_permute_cancel {n : Nat} {t u : List Nat} (ht : t.length = n) (hu : u.length = n)
    (h : ∀ i < n, u.getD i 0 - 1 < n ∧ t.getD (u.getD i 0 - 1) 0 - 1 = i) (x : BitVec n) :
    permute n u (permute n t x) = x := by
  apply BitVec.eq_of_getMsbD_eq
  intro i hi
  obtain ⟨hrange, hback⟩ := h i hi
  rw [permute_getMsbD u _ i hu hi, permute_getMsbD t x _ ht hrange, hback]

theorem permute_desFP_desIP (x : BitVec 64) : permute 64 desFP (permute 64 desIP x) = x :=
  permute_permute_cancel (n := 64) rfl rfl (by decide) x

theorem permute_desIP_desFP (x : BitVec 64) : permute 64 desIP (permute 64 desFP x) = x :=
  permute_permute_cancel (n := 64) rfl rfl (by decide) x

/-- A permutation reads only the bits its table names. -/
theorem permute_congr {n m : Nat} {t : List Nat} {x y : BitVec n}
    (h : ∀ k ∈ t, x.getMsbD (k - 1) = y.getMsbD (k - 1)) : permute m t x = permute m t y := by
  rw [permute, permute, List.foldl_ext _ _ _ fun _ k hk => by rw [h k hk]]

/-! ### Decryption undoes encryption (R129, R130) -/

theorem desRounds_cons (k : BitVec 48) (ks : List (BitVec 48)) (l r : BitVec 32) :
    desRounds (k :: ks) l r = desRounds ks r (l ^^^ desF r k) := rfl

theorem desRounds_append (ks js : List (BitVec 48)) (l r : BitVec 32) :
    desRounds (ks ++ js) l r = desRounds js (desRounds ks l r).1 (desRounds ks l r).2 := by
  induction ks generalizing l r with
  | nil => rfl
  | cons k ks ih => exact ih _ _

/-- R130: the rounds under the reversed keys, started from the swapped halves, end in the swapped halves the rounds
started from. -/
theorem desRounds_reverse (ks : List (BitVec 48)) (l r : BitVec 32) :
    desRounds ks.reverse (desRounds ks l r).2 (desRounds ks l r).1 = (r, l) := by
  induction ks generalizing l r with
  | nil => rfl
  | cons k ks ih =>
    rw [List.reverse_cons, desRounds_append, desRounds_cons k ks, ih, desRounds_cons, BitVec.xor_assoc, BitVec.xor_self,
      BitVec.xor_zero]
    rfl

theorem desCrypt_reverse_desCrypt (ks : List (BitVec 48)) {b : Bytes} (hb : b.length = 8) :
    desCrypt ks.reverse (desCrypt ks b) = b := by
  have hhalves (l r : BitVec 32) : (l ++ r).extractLsb' 32 32 = l ∧ (l ++ r).extractLsb' 0 32 = r :=
    ⟨BitVec.extractLsb'_append_eq_left, BitVec.extractLsb'_append_eq_right⟩
  have hjoin (x : BitVec (32 + 32)) : x.extractLsb' 32 32 ++ x.extractLsb' 0 32 = x :=
    BitVec.extractLsb'_append_extractLsb'
  simp only [desCrypt, desBits_desBytes, permute_desIP_desFP, hhalves, desRounds_reverse, hjoin, permute_desFP_desIP,
    desBytes_desBits hb]

theorem desDec_desEnc (k : Bytes) {b : Bytes} (hb : b.length = 8) : desDec k (desEnc k b) = b :=
  desCrypt_reverse_desCrypt (desRoundKeys k) hb

theorem desEnc_desDec (k : Bytes) {b : Bytes} (hb : b.length = 8) : desEnc k (desDec k b) = b := by
  have h := desCrypt_reverse_desCrypt (desRoundKeys k).reverse hb
  rwa [List.reverse_reverse] at h

/-! ### The low bits of a key's bytes (R131) -/

theorem desPC1_mod_eight : ∀ k ∈ desPC1, k % 8 ≠ 0 := by decide

/-- A byte without its low bit still has its seven high bits. -/
theorem getMsbD_of_and_FE {x y : Byte} (h : x &&& 0xFE = y &&& 0xFE) {j : Nat} (hj : j < 7) :
    x.getMsbD j = y.getMsbD j := by
  have hmask : (0xFE : Byte).getMsbD j = true := (by decide : ∀ j < 7, (0xFE : Byte).getMsbD j = true) j hj
  have hbit : (x &&& 0xFE).getMsbD j = (y &&& 0xFE).getMsbD j := by rw [h]
  rwa [BitVec.getMsbD_and, BitVec.getMsbD_and, hmask, Bool.and_true, Bool.and_true] at hbit

theorem desRoundKeys_congr {k l : Bytes} (hk : k.length = 8) (hl : l.length = 8)
    (h : ∀ i, k.getD i 0 &&& 0xFE = l.getD i 0 &&& 0xFE) : desRoundKeys k = desRoundKeys l := by
  have hbits : ∀ q ∈ desPC1, (desBits k).getMsbD (q - 1) = (desBits l).getMsbD (q - 1) := by
    intro q hq
    have hlow := desPC1_mod_eight q hq
    have hle : q ≤ 64 := (by decide : ∀ q ∈ desPC1, q ≤ 64) q hq
    have hindex : q - 1 = 8 * ((q - 1) / 8) + (q - 1) % 8 := by omega
    rw [hindex, desBits_getMsbD hk (by omega) (by omega), desBits_getMsbD hl (by omega) (by omega)]
    exact getMsbD_of_and_FE (h _) (by omega)
  rw [desRoundKeys, desRoundKeys, permute_congr hbits]

/-- R120: the bytes of a part of the key. -/
theorem keyPart_getD (key : Vector Byte 24) (i n j : Nat) :
    (keyPart key i n).getD j 0 = if j < n then key.getD (i + j) 0 else 0 := by
  have hkey (q : Nat) : key.toList[q]?.getD 0 = key.getD q 0 := by
    by_cases hq : q < 24 <;> simp [Vector.getD, hq]
  rw [keyPart, List.getD_eq_getElem?_getD, List.getElem?_take]
  split
  · rw [List.getElem?_drop, hkey]
  · rfl

/-- Settles O48: `PC1` names no low bit of a key byte, so equal high bits give equal round keys, and triple DES reads
its key only through DES. -/
theorem parityBitsAreIgnored : Obligations.ParityBitsAreIgnored := by
  refine ⟨desPC1_mod_eight, fun k l b hk hl h => ?_, fun kt k l b hkt h => ?_⟩
  · simp only [desEnc, desDec, desRoundKeys_congr hk hl h, and_self]
  have hpart (i : Nat) (hi : i + 8 ≤ 24) : desRoundKeys (keyPart k i 8) = desRoundKeys (keyPart l i 8) := by
    refine desRoundKeys_congr (keyPart_length k hi) (keyPart_length l hi) fun j => ?_
    rw [keyPart_getD, keyPart_getD]
    split
    · exact h (i + j)
    · rfl
  have h0 := hpart 0 (by decide)
  have h8 := hpart 8 (by decide)
  have h16 := hpart 16 (by decide)
  cases kt with
  | aes => exact absurd rfl hkt
  | des => simp only [blkEnc, blkDec, desEnc, desDec, h0, and_self]
  | tdes2 => simp only [blkEnc, blkDec, desEnc, desDec, h0, h8, and_self]
  | tdes3 => simp only [blkEnc, blkDec, desEnc, desDec, h0, h8, h16, and_self]

/-! ### Equal halves (R133) -/

/-- Settles O49: with one key for both halves the middle step undoes the step before it. -/
theorem equalHalvesGiveSingleDes : Obligations.EqualHalvesGiveSingleDes := by
  intro key b hb h
  have hhalves : keyPart key 0 8 = keyPart key 8 8 := (take_eq_drop_take_iff key (by decide)).mpr h
  constructor
  · rw [blkEnc, blkEnc, hhalves, desDec_desEnc _ hb]
  · rw [blkDec, blkDec, hhalves, desEnc_desDec _ hb]

end Sys2Proof.Machine
end

section
/-! PROOFS. AES (R134 to R141): the S-box pair, the products of R135 as additive maps, and each round transformation
undone by its inverse. -/

namespace Sys2Proof.Machine

/-! ### The S-boxes (R136, R137) -/

/-- The affine map of R136 backwards. -/
def invAffine (z : Byte) : Byte := z.rotateLeft 1 ^^^ z.rotateLeft 3 ^^^ z.rotateLeft 6 ^^^ 0x05

/-- R136: `invAffine` is what the affine map undoes. -/
theorem affine_invAffine (z : Byte) :
    invAffine z ^^^ (invAffine z).rotateLeft 1 ^^^ (invAffine z).rotateLeft 2 ^^^ (invAffine z).rotateLeft 3 ^^^
      (invAffine z).rotateLeft 4 ^^^ 0x63 = z := by
  revert z
  decide +kernel

theorem aesInvSBox_aesSBox (x : Byte) : aesInvSBox (aesSBox x) = x := by
  revert x
  decide +kernel

/-- R137: on the 256 bytes a left inverse is a right inverse too. -/
theorem aesSBox_aesInvSBox (x : Byte) : aesSBox (aesInvSBox x) = x := by
  have hinj : Function.Injective aesSBox := Function.LeftInverse.injective aesInvSBox_aesSBox
  obtain ⟨y, rfl⟩ := Finite.surjective_of_injective hinj x
  rw [aesInvSBox_aesSBox]

/-- R136: before the affine map stands the inverse in the field. -/
theorem gmul_invAffine_aesSBox (x : Byte) (hx : x ≠ 0) : gmul x (invAffine (aesSBox x)) = 1 := by
  revert x
  decide +kernel

/-- Settles O50. -/
theorem sBoxTablesAreTheFieldInverse : Obligations.SBoxTablesAreTheFieldInverse :=
  ⟨fun x => ⟨aesInvSBox_aesSBox x, aesSBox_aesInvSBox x⟩,
    fun x => ⟨invAffine (aesSBox x), by rintro rfl; decide, gmul_invAffine_aesSBox x, (affine_invAffine _).symm⟩⟩

/-! ### Products as additive maps (R135) -/

/-- Two sums over the same index list add up termwise. -/
theorem foldl_xor_xor_foldl_xor (g h : Nat → Byte) (l : List Nat) (a b : Byte) :
    l.foldl (fun acc i => acc ^^^ g i) a ^^^ l.foldl (fun acc i => acc ^^^ h i) b =
      l.foldl (fun acc i => acc ^^^ (g i ^^^ h i)) (a ^^^ b) := by
  induction l generalizing a b with
  | nil => rfl
  | cons i l ih =>
    rw [List.foldl_cons, List.foldl_cons, List.foldl_cons, ih]
    congr 1
    ac_rfl

/-- R135: the product is additive in the factor whose bits it runs over. -/
theorem gmul_xor (a x y : Byte) : gmul a (x ^^^ y) = gmul a x ^^^ gmul a y := by
  simp only [gmul, foldl_xor_xor_foldl_xor, BitVec.xor_self]
  refine List.foldl_ext _ _ _ fun acc i _ => ?_
  rw [BitVec.getLsbD_xor]
  cases x.getLsbD i <;> cases y.getLsbD i <;> simp

/-- R135: a byte is the sum of the powers `xtime^i(1)` over its bits. -/
theorem one_gmul (x : Byte) : gmul 1 x = x := by
  revert x
  decide +kernel

/-- A column of the AES state (R134), by row. -/
abbrev Column := Fin 4 → Byte

/-- The column whose only byte is `x`, in row `r`. -/
def Column.unit (r : Fin 4) (x : Byte) : Column := fun q => if q = r then x else 0

/-- Sums of columns are kept. -/
def Column.IsAdditive (f : Column → Byte) : Prop := ∀ x y : Column, f (fun r => x r ^^^ y r) = f x ^^^ f y

/-- A column is the sum of its four unit columns. -/
theorem Column.eq_sum_units (x : Column) :
    x = fun q => unit 0 (x 0) q ^^^ unit 1 (x 1) q ^^^ unit 2 (x 2) q ^^^ unit 3 (x 3) q := by
  funext q
  fin_cases q <;> simp [unit]

theorem Column.IsAdditive.foldl {f : Column → Byte} (hf : IsAdditive f) (r : Fin 4) (g : Nat → Byte) (l : List Nat)
    (a : Byte) : f (unit r (l.foldl (fun acc i => acc ^^^ g i) a)) =
      l.foldl (fun acc i => acc ^^^ f (unit r (g i))) (f (unit r a)) := by
  induction l generalizing a with
  | nil => rfl
  | cons i l ih =>
    have hsplit : unit r (a ^^^ g i) = fun q => unit r a q ^^^ unit r (g i) q := by
      funext q
      by_cases hq : q = r <;> simp [unit, hq]
    rw [List.foldl_cons, List.foldl_cons, ih, hsplit, hf]

theorem Column.IsAdditive.unit_zero {f : Column → Byte} (hf : IsAdditive f) (r : Fin 4) : f (unit r 0) = 0 := by
  have hzero : unit r 0 = fun q => unit r 0 q ^^^ unit r 0 q := by
    funext q
    simp [unit]
  rw [hzero, hf]
  exact BitVec.xor_self

/-- Two additive maps are equal when they agree on the unit columns of the eight powers `xtime^i(1)`. -/
theorem Column.IsAdditive.ext {f g : Column → Byte} (hf : IsAdditive f) (hg : IsAdditive g)
    (h : ∀ r, ∀ i < 8, f (unit r (xtimePow i 1)) = g (unit r (xtimePow i 1))) (x : Column) : f x = g x := by
  have hunit (r : Fin 4) (b : Byte) : f (unit r b) = g (unit r b) := by
    rw [← one_gmul b, gmul, hf.foldl, hg.foldl, hf.unit_zero, hg.unit_zero]
    refine List.foldl_ext _ _ _ fun acc i hi => ?_
    split
    · rw [h r i (List.mem_range.mp hi)]
    · rw [hf.unit_zero, hg.unit_zero]
  rw [x.eq_sum_units]
  simp only [hf _ _, hg _ _, hunit]

/-- R139: the product of a column with the circulant matrix whose first row is `m`. -/
def circulant (m : Fin 4 → Byte) (x : Column) : Column := fun r =>
  gmul (m 0) (x r) ^^^ gmul (m 1) (x (r + 1)) ^^^ gmul (m 2) (x (r + 2)) ^^^ gmul (m 3) (x (r + 3))

theorem circulant_xor (m : Fin 4 → Byte) (x y : Column) :
    circulant m (fun r => x r ^^^ y r) = fun r => circulant m x r ^^^ circulant m y r := by
  funext r
  simp only [circulant, gmul_xor]
  ac_rfl

/-- Two circulant matrices undo each other when they do so on the unit columns. -/
theorem circulant_circulant_cancel {n m : Fin 4 → Byte}
    (h : ∀ q r, ∀ i < 8,
      circulant n (circulant m (Column.unit r (xtimePow i 1))) q = Column.unit r (xtimePow i 1) q)
    (x : Column) : circulant n (circulant m x) = x := by
  funext q
  refine Column.IsAdditive.ext (f := fun x => circulant n (circulant m x) q) (g := fun x => x q) ?_ ?_ (h q) x
  · intro x y
    simp only [circulant_xor]
  · exact fun _ _ => rfl

/-- R139: the first row of the matrix of MixColumns. -/
def mixRow : Fin 4 → Byte := ![0x02, 0x03, 0x01, 0x01]

/-- R139: the first row of the matrix of InvMixColumns. -/
def invMixRow : Fin 4 → Byte := ![0x0E, 0x0B, 0x0D, 0x09]

theorem circulant_invMixRow_mixRow (x : Column) : circulant invMixRow (circulant mixRow x) = x :=
  circulant_circulant_cancel (by decide +kernel) x

theorem circulant_mixRow_invMixRow (x : Column) : circulant mixRow (circulant invMixRow x) = x :=
  circulant_circulant_cancel (by decide +kernel) x

/-! ### The state (R134) -/

theorem aesAt_aesState (f : Nat → Nat → Byte) {r c : Nat} (hr : r < 4) (hc : c < 4) :
    aesAt (aesState f) r c = f r c := by
  rw [aesAt, aesState, byteTable_getD, if_pos (by omega), show (r + 4 * c) % 4 = r by omega,
    show (r + 4 * c) / 4 = c by omega]

/-- A state is determined by its elements. -/
theorem aes_ext {s t : Bytes} (hs : s.length = 16) (ht : t.length = 16)
    (h : ∀ r < 4, ∀ c < 4, aesAt s r c = aesAt t r c) : s = t := by
  refine List.ext_getElem (hs.trans ht.symm) fun i his hit => ?_
  have hat := h (i % 4) (by omega) (i / 4) (by omega)
  rwa [aesAt, aesAt, show i % 4 + 4 * (i / 4) = i by omega, List.getD_eq_getElem _ _ his,
    List.getD_eq_getElem _ _ hit] at hat

/-- R134: column `c` of the state. -/
def aesColumn (s : Bytes) (c : Nat) : Column := fun r => aesAt s r c

/-- Two states are equal when their columns are. -/
theorem aes_ext_column {s t : Bytes} (hs : s.length = 16) (ht : t.length = 16)
    (h : ∀ c < 4, aesColumn s c = aesColumn t c) : s = t :=
  aes_ext hs ht fun r hr c hc => congrFun (h c hc) ⟨r, hr⟩

/-! ### The round transformations and their inverses (R139) -/

@[simp] theorem subBytes_length (s : Bytes) : (subBytes s).length = s.length := List.length_map _

@[simp] theorem invSubBytes_length (s : Bytes) : (invSubBytes s).length = s.length := List.length_map _

@[simp] theorem shiftRows_length (s : Bytes) : (shiftRows s).length = 16 := aesState_length _

@[simp] theorem invShiftRows_length (s : Bytes) : (invShiftRows s).length = 16 := aesState_length _

theorem invSubBytes_subBytes (s : Bytes) : invSubBytes (subBytes s) = s := by
  rw [invSubBytes, subBytes, List.map_map]
  exact List.map_id'' aesInvSBox_aesSBox s

theorem subBytes_invSubBytes (s : Bytes) : subBytes (invSubBytes s) = s := by
  rw [invSubBytes, subBytes, List.map_map]
  exact List.map_id'' aesSBox_aesInvSBox s

theorem invShiftRows_shiftRows {s : Bytes} (hs : s.length = 16) : invShiftRows (shiftRows s) = s := by
  refine aes_ext (invShiftRows_length _) hs fun r hr c hc => ?_
  rw [invShiftRows, aesAt_aesState _ hr hc, shiftRows, aesAt_aesState _ hr (by omega),
    show ((c + 4 - r) % 4 + r) % 4 = c by omega]

theorem shiftRows_invShiftRows {s : Bytes} (hs : s.length = 16) : shiftRows (invShiftRows s) = s := by
  refine aes_ext (shiftRows_length _) hs fun r hr c hc => ?_
  rw [shiftRows, aesAt_aesState _ hr hc, invShiftRows, aesAt_aesState _ hr (by omega),
    show ((c + r) % 4 + 4 - r) % 4 = c by omega]

/-- R139: each column is multiplied by the matrix. -/
theorem aesColumn_mixWith (m : Fin 4 → Byte) (s : Bytes) {c : Nat} (hc : c < 4) :
    aesColumn (mixWith (m 0) (m 1) (m 2) (m 3) s) c = circulant m (aesColumn s c) := by
  funext r
  rw [aesColumn, mixWith, aesAt_aesState _ r.isLt hc]
  rfl

@[simp] theorem mixWith_length (m0 m1 m2 m3 : Byte) (s : Bytes) : (mixWith m0 m1 m2 m3 s).length = 16 :=
  aesState_length _

@[simp] theorem mixColumns_length (s : Bytes) : (mixColumns s).length = 16 := mixWith_length _ _ _ _ s

@[simp] theorem invMixColumns_length (s : Bytes) : (invMixColumns s).length = 16 := mixWith_length _ _ _ _ s

theorem aesColumn_mixColumns (s : Bytes) {c : Nat} (hc : c < 4) :
    aesColumn (mixColumns s) c = circulant mixRow (aesColumn s c) := aesColumn_mixWith mixRow s hc

theorem aesColumn_invMixColumns (s : Bytes) {c : Nat} (hc : c < 4) :
    aesColumn (invMixColumns s) c = circulant invMixRow (aesColumn s c) := aesColumn_mixWith invMixRow s hc

theorem invMixColumns_mixColumns {s : Bytes} (hs : s.length = 16) : invMixColumns (mixColumns s) = s := by
  refine aes_ext_column (invMixColumns_length _) hs fun c hc => ?_
  rw [aesColumn_invMixColumns _ hc, aesColumn_mixColumns s hc, circulant_invMixRow_mixRow]

theorem mixColumns_invMixColumns {s : Bytes} (hs : s.length = 16) : mixColumns (invMixColumns s) = s := by
  refine aes_ext_column (mixColumns_length _) hs fun c hc => ?_
  rw [aesColumn_mixColumns _ hc, aesColumn_invMixColumns s hc, circulant_mixRow_invMixRow]

theorem addRoundKey_addRoundKey {rk s : Bytes} (h : s.length = rk.length) :
    addRoundKey rk (addRoundKey rk s) = s := by
  refine List.ext_getElem (by simp [addRoundKey, h]) fun i _ _ => ?_
  simp only [addRoundKey, xorBytes, List.getElem_zipWith, BitVec.xor_assoc, BitVec.xor_self, BitVec.xor_zero]

@[simp] theorem addRoundKey_length (rk s : Bytes) : (addRoundKey rk s).length = min s.length rk.length :=
  xorBytes_length s rk

/-! ### The rounds and the cipher (R140, R141) -/

@[simp] theorem aesDecRound_length (k s : Bytes) (j : Nat) : (aesDecRound k s j).length = 16 := invMixColumns_length _

/-- Rounds that undo each other one by one, across the step `half` that stands between them, undo each other as a whole
in the reverse order. -/
theorem foldl_reverse_foldl {f g : Bytes → Nat → Bytes} {half : Bytes → Bytes} {js : List Nat}
    (h : ∀ s, ∀ j ∈ js, g (half (f s j)) j = half s) (s : Bytes) :
    js.reverse.foldl g (half (js.foldl f s)) = half s := by
  induction js generalizing s with
  | nil => rfl
  | cons j js ih =>
    have hinner := ih (fun t i hi => h t i (List.mem_cons_of_mem j hi)) (f s j)
    rw [List.reverse_cons, List.foldl_append, List.foldl_cons, List.foldl_cons, hinner]
    exact h s j List.mem_cons_self

section Rounds
variable {k : Bytes} (hk : 16 ≤ k.length)
include hk

theorem addRoundKey_aesRoundKey_cancel {j : Nat} (hj : j ≤ 10) {s : Bytes} (hs : s.length = 16) :
    addRoundKey (aesRoundKey k j) (addRoundKey (aesRoundKey k j) s) = s :=
  addRoundKey_addRoundKey (hs.trans (aesRoundKey_length hk hj).symm)

theorem addRoundKey_aesRoundKey_length {j : Nat} (hj : j ≤ 10) {s : Bytes} (hs : s.length = 16) :
    (addRoundKey (aesRoundKey k j) s).length = 16 := by
  rw [addRoundKey_length, hs, aesRoundKey_length hk hj, Nat.min_self]

/-- R141: across the substitution and the shift that end it, a round of the encryption is undone by the decryption's. -/
theorem aesDecRound_aesEncRound (s : Bytes) {j : Nat} (hj : j ≤ 10) :
    aesDecRound k (shiftRows (subBytes (aesEncRound k s j))) j = shiftRows (subBytes s) := by
  have hlen : (aesEncRound k s j).length = 16 := addRoundKey_aesRoundKey_length hk hj (mixColumns_length _)
  rw [aesDecRound, invShiftRows_shiftRows ((subBytes_length _).trans hlen), invSubBytes_subBytes, aesEncRound,
    addRoundKey_aesRoundKey_cancel hk hj (mixColumns_length _), invMixColumns_mixColumns (shiftRows_length _)]

/-- R140: across the shift and the substitution back that begin it, a round of the decryption is undone by the
encryption's. -/
theorem aesEncRound_aesDecRound (s : Bytes) {j : Nat} (hj : j ≤ 10) :
    aesEncRound k (invSubBytes (invShiftRows (aesDecRound k s j))) j = invSubBytes (invShiftRows s) := by
  have hback : (invSubBytes (invShiftRows s)).length = 16 := (invSubBytes_length _).trans (invShiftRows_length s)
  rw [aesEncRound, subBytes_invSubBytes, shiftRows_invShiftRows (aesDecRound_length k s j), aesDecRound,
    mixColumns_invMixColumns (addRoundKey_aesRoundKey_length hk hj hback), addRoundKey_aesRoundKey_cancel hk hj hback]

theorem aesDec_aesEnc {b : Bytes} (hb : b.length = 16) : aesDec k (aesEnc k b) = b := by
  have hle : ∀ j ∈ [1, 2, 3, 4, 5, 6, 7, 8, 9], j ≤ 10 := by decide
  have hrounds (s : Bytes) : [9, 8, 7, 6, 5, 4, 3, 2, 1].foldl (aesDecRound k)
      (shiftRows (subBytes ([1, 2, 3, 4, 5, 6, 7, 8, 9].foldl (aesEncRound k) s))) = shiftRows (subBytes s) :=
    foldl_reverse_foldl (half := fun s => shiftRows (subBytes s))
      (fun s j hj => aesDecRound_aesEncRound hk s (hle j hj)) s
  have hfirst := addRoundKey_aesRoundKey_length hk (Nat.zero_le 10) hb
  rw [aesDec, aesEnc, addRoundKey_aesRoundKey_cancel hk le_rfl (shiftRows_length _), hrounds,
    invShiftRows_shiftRows ((subBytes_length _).trans hfirst), invSubBytes_subBytes,
    addRoundKey_aesRoundKey_cancel hk (Nat.zero_le 10) hb]

theorem aesEnc_aesDec {b : Bytes} (hb : b.length = 16) : aesEnc k (aesDec k b) = b := by
  have hle : ∀ j ∈ [9, 8, 7, 6, 5, 4, 3, 2, 1], j ≤ 10 := by decide
  have hrounds (s : Bytes) : [1, 2, 3, 4, 5, 6, 7, 8, 9].foldl (aesEncRound k)
      (invSubBytes (invShiftRows ([9, 8, 7, 6, 5, 4, 3, 2, 1].foldl (aesDecRound k) s))) =
        invSubBytes (invShiftRows s) :=
    foldl_reverse_foldl (half := fun s => invSubBytes (invShiftRows s))
      (fun s j hj => aesEncRound_aesDecRound hk s (hle j hj)) s
  have hfirst := addRoundKey_aesRoundKey_length hk (le_refl 10) hb
  rw [aesEnc, aesDec,
    addRoundKey_aesRoundKey_cancel hk (Nat.zero_le 10) ((invSubBytes_length _).trans (invShiftRows_length _)), hrounds,
    subBytes_invSubBytes, shiftRows_invShiftRows hfirst, addRoundKey_aesRoundKey_cancel hk le_rfl hb]

end Rounds

end Sys2Proof.Machine
end

section
/-! PROOFS. The block functions of the four key types together (R120, R129, R132, R140, R141). -/

namespace Sys2Proof.Machine

/-- R132: the three steps of triple DES under keys `k`, `l`, `m`, undone in the reverse order. -/
theorem tripleDes_dec_enc (k l m : Bytes) {b : Bytes} (hb : b.length = 8) :
    desDec k (desEnc l (desDec m (desEnc m (desDec l (desEnc k b))))) = b := by
  rw [desDec_desEnc m (desDec_length _ _), desEnc_desDec l (desEnc_length _ _), desDec_desEnc k hb]

theorem tripleDes_enc_dec (k l m : Bytes) {b : Bytes} (hb : b.length = 8) :
    desEnc m (desDec l (desEnc k (desDec k (desEnc l (desDec m b))))) = b := by
  rw [desEnc_desDec k (desEnc_length _ _), desDec_desEnc l (desDec_length _ _), desEnc_desDec m hb]

theorem blkDec_blkEnc {kt : KeyType} (key : Vector Byte 24) {b : Bytes} (hb : b.length = blockSize kt) :
    blkDec kt key (blkEnc kt key b) = b := by
  cases kt with
  | des => exact desDec_desEnc _ hb
  | tdes2 => exact tripleDes_dec_enc _ _ _ hb
  | tdes3 => exact tripleDes_dec_enc _ _ _ hb
  | aes => exact aesDec_aesEnc (keyPart_length key (by decide)).ge hb

theorem blkEnc_blkDec {kt : KeyType} (key : Vector Byte 24) {b : Bytes} (hb : b.length = blockSize kt) :
    blkEnc kt key (blkDec kt key b) = b := by
  cases kt with
  | des => exact desEnc_desDec _ hb
  | tdes2 => exact tripleDes_enc_dec _ _ _ hb
  | tdes3 => exact tripleDes_enc_dec _ _ _ hb
  | aes => exact aesEnc_aesDec (keyPart_length key (by decide)).ge hb

/-- Settles O46. -/
theorem blockFunctionsInvert : Obligations.BlockFunctionsInvert := fun _ key _ hb =>
  ⟨blkDec_blkEnc key hb, blkEnc_blkDec key hb⟩

/-- Settles O47, one evaluation of the model for each worked example. -/
theorem blockFunctionsOnWorkedExamples : Obligations.BlockFunctionsOnWorkedExamples := by
  unfold Obligations.BlockFunctionsOnWorkedExamples
  intro quic key aes block
  refine ⟨?_, ?_, ?_, ?_, ?_, ?_⟩
  all_goals decide +kernel

end Sys2Proof.Machine
end

section
/-! PROOFS. The CBC chains over byte strings (R54, R161, R162, R168): a message of whole blocks and the list of its blocks
are one thing, so what holds of a chain over blocks holds of `cbcEnc` and `cbcDec`. -/

namespace Sys2Proof.Machine

/-! ### Messages of whole blocks (R54) -/

@[simp] theorem blocks_nil (bs : Nat) : blocks bs [] = [] := by simp [blocks]

/-- A message that begins with a block. -/
theorem blocks_append_block {bs : Nat} {b : Bytes} (hbs : 0 < bs) (hb : b.length = bs) (m : Bytes) :
    blocks bs (b ++ m) = b :: blocks bs m := by
  have hcount : (b ++ m).length / bs = m.length / bs + 1 := by
    rw [List.length_append, hb, Nat.add_div_left _ hbs]
  have hdrop (i : Nat) : (b ++ m).drop ((i + 1) * bs) = m.drop (i * bs) := by
    rw [Nat.succ_mul, Nat.add_comm, ← hb, List.drop_length_add_append]
  rw [blocks, hcount, List.range_succ_eq_map, List.map_cons, List.map_map, Nat.zero_mul, List.drop_zero,
    List.take_left' hb]
  exact congrArg _ (List.map_congr_left fun i _ => congrArg (List.take bs) (hdrop i))

/-- Blocks put end to end before a message are the first blocks of the whole. -/
theorem blocks_flatten_append {bs : Nat} (hbs : 0 < bs) {l : List Bytes} (hl : ∀ b ∈ l, b.length = bs) (m : Bytes) :
    blocks bs (l.flatten ++ m) = l ++ blocks bs m := by
  induction l with
  | nil => rfl
  | cons b l ih =>
    rw [List.flatten_cons, List.append_assoc, blocks_append_block hbs (hl b (List.mem_cons_self ..)),
      ih fun x hx => hl x (List.mem_cons_of_mem _ hx), List.cons_append]

theorem blocks_flatten {bs : Nat} (hbs : 0 < bs) {l : List Bytes} (hl : ∀ b ∈ l, b.length = bs) :
    blocks bs l.flatten = l := by
  simpa using blocks_flatten_append hbs hl []

/-- The first `n` blocks put end to end are the first `n * bs` bytes. -/
theorem flatten_blocks_take (bs n : Nat) (m : Bytes) :
    ((List.range n).map fun i => (m.drop (i * bs)).take bs).flatten = m.take (n * bs) := by
  induction n with
  | zero => simp
  | succ n ih => simp [List.range_succ, ih, Nat.succ_mul, List.take_add]

theorem flatten_blocks {bs : Nat} {m : Bytes} (h : m.length % bs = 0) : (blocks bs m).flatten = m := by
  rw [blocks, flatten_blocks_take, Nat.div_mul_cancel (Nat.dvd_of_mod_eq_zero h), List.take_length]

/-- R168: a message cut at a block boundary. -/
theorem blocks_append {bs : Nat} (hbs : 0 < bs) {m1 : Bytes} (h : m1.length % bs = 0) (m2 : Bytes) :
    blocks bs (m1 ++ m2) = blocks bs m1 ++ blocks bs m2 := by
  conv_lhs => rw [← flatten_blocks h]
  exact blocks_flatten_append hbs (fun _ => length_of_mem_blocks) m2

/-- R161, R162: what a chain hands on is the end of a message of whole blocks, or the block it started from. -/
theorem blocks_getLastD_eq_drop {bs : Nat} {m : Bytes} (h : m.length % bs = 0) (d : Bytes) :
    (blocks bs m).getLastD d = if m.length = 0 then d else m.drop (m.length - bs) := by
  split
  · next hm => rw [List.eq_nil_of_length_eq_zero hm, blocks_nil, List.getLastD_nil]
  · next hm =>
    rw [blocks_getLastD (Nat.pos_of_ne_zero hm) h]
    exact List.take_of_length_le (by rw [List.length_drop]; omega)

/-! ### Chains over blocks -/

theorem getLastD_append (xs ys : List Bytes) (d : Bytes) : (xs ++ ys).getLastD d = ys.getLastD (xs.getLastD d) := by
  induction xs generalizing d with
  | nil => rfl
  | cons x xs ih => rw [List.cons_append, List.getLastD_cons, List.getLastD_cons, ih]

theorem xorBytes_xorBytes_cancel {a b : Bytes} (h : a.length = b.length) : xorBytes (xorBytes a b) b = a :=
  addRoundKey_addRoundKey h

section Chain
variable (kt : KeyType) (key : Vector Byte 24)

/-- R161: block `i` of a ciphertext. -/
theorem cbcEncBlocks_getD {ms : List Bytes} {i : Nat} (prev : Bytes) (hi : i < ms.length) :
    (cbcEncBlocks kt key prev ms).getD i [] =
      blkEnc kt key (xorBytes (ms.getD i [])
        (if i = 0 then prev else (cbcEncBlocks kt key prev ms).getD (i - 1) [])) := by
  induction ms generalizing prev i with
  | nil => exact absurd hi (Nat.not_lt_zero i)
  | cons m ms ih =>
    cases i with
    | zero => rfl
    | succ i =>
      rw [cbcEncBlocks, List.getD_cons_succ, List.getD_cons_succ, ih _ (Nat.lt_of_succ_lt_succ hi),
        if_neg (Nat.succ_ne_zero i), Nat.add_sub_cancel]
      cases i <;> rfl

/-- R162: block `i` of a plaintext. -/
theorem cbcDecBlocks_getD {cs : List Bytes} {i : Nat} (prev : Bytes) (hi : i < cs.length) :
    (cbcDecBlocks kt key prev cs).getD i [] =
      xorBytes (blkDec kt key (cs.getD i [])) (if i = 0 then prev else cs.getD (i - 1) []) := by
  induction cs generalizing prev i with
  | nil => exact absurd hi (Nat.not_lt_zero i)
  | cons c cs ih =>
    cases i with
    | zero => rfl
    | succ i =>
      rw [cbcDecBlocks, List.getD_cons_succ, List.getD_cons_succ, ih _ (Nat.lt_of_succ_lt_succ hi),
        if_neg (Nat.succ_ne_zero i), Nat.add_sub_cancel]
      cases i <;> rfl

/-- R168: the second part of a cut encryption starts from the last block of the first. -/
theorem cbcEncBlocks_append (prev : Bytes) (ms ns : List Bytes) :
    cbcEncBlocks kt key prev (ms ++ ns) =
      cbcEncBlocks kt key prev ms ++ cbcEncBlocks kt key ((cbcEncBlocks kt key prev ms).getLastD prev) ns := by
  induction ms generalizing prev with
  | nil => rfl
  | cons m ms ih => rw [List.cons_append, cbcEncBlocks, cbcEncBlocks, ih, List.cons_append, List.getLastD_cons]

/-- R168: the second part of a cut decryption starts from the last block of the first part's input. -/
theorem cbcDecBlocks_append (prev : Bytes) (cs ds : List Bytes) :
    cbcDecBlocks kt key prev (cs ++ ds) =
      cbcDecBlocks kt key prev cs ++ cbcDecBlocks kt key (cs.getLastD prev) ds := by
  induction cs generalizing prev with
  | nil => rfl
  | cons c cs ih => rw [List.cons_append, cbcDecBlocks, cbcDecBlocks, ih, List.cons_append, List.getLastD_cons]

/-- R162: block by block the decryption undoes the encryption, since both combine with the same ciphertext block. -/
theorem cbcDecBlocks_cbcEncBlocks {prev : Bytes} (hp : prev.length = blockSize kt) {ms : List Bytes}
    (hm : ∀ m ∈ ms, m.length = blockSize kt) : cbcDecBlocks kt key prev (cbcEncBlocks kt key prev ms) = ms := by
  induction ms generalizing prev with
  | nil => rfl
  | cons m ms ih =>
    have hlen : m.length = blockSize kt := hm m (List.mem_cons_self ..)
    have hxor : (xorBytes m prev).length = blockSize kt := by rw [xorBytes_length, hlen, hp, Nat.min_self]
    rw [cbcEncBlocks, cbcDecBlocks, blkDec_blkEnc key hxor, xorBytes_xorBytes_cancel (hlen.trans hp.symm),
      ih (blkEnc_length kt key _) fun x hx => hm x (List.mem_cons_of_mem _ hx)]

end Chain

/-! ### Chains over messages (R161, R162, R168) -/

/-- R161: the blocks of the ciphertext are those of the chain. -/
theorem blocks_cbcEnc (kt : KeyType) (key : Vector Byte 24) (iv0 m : Bytes) :
    blocks (blockSize kt) (cbcEnc kt key iv0 m).1 = cbcEncBlocks kt key iv0 (blocks (blockSize kt) m) :=
  blocks_flatten (blockSize_pos kt) fun _ => length_of_mem_cbcEncBlocks

/-- R162: the blocks of the plaintext are those of the chain. -/
theorem blocks_cbcDec {kt : KeyType} (key : Vector Byte 24) {iv0 : Bytes} (hiv : iv0.length = blockSize kt) (c : Bytes) :
    blocks (blockSize kt) (cbcDec kt key iv0 c).1 = cbcDecBlocks kt key iv0 (blocks (blockSize kt) c) :=
  blocks_flatten (blockSize_pos kt) fun _ =>
    length_of_mem_cbcDecBlocks hiv fun _ => length_of_mem_blocks

/-- R161: the value an encryption hands on is the last block of its ciphertext. -/
theorem cbcEnc_snd (kt : KeyType) (key : Vector Byte 24) (iv0 m : Bytes) :
    (cbcEnc kt key iv0 m).2 = (blocks (blockSize kt) (cbcEnc kt key iv0 m).1).getLastD iv0 := by
  rw [blocks_cbcEnc, cbcEnc]

theorem cbcEnc_length {kt : KeyType} (key : Vector Byte 24) (iv0 : Bytes) {m : Bytes} (h : m.length % blockSize kt = 0) :
    (cbcEnc kt key iv0 m).1.length = m.length := by
  rw [cbcEnc_bytes_length, Nat.div_mul_cancel (Nat.dvd_of_mod_eq_zero h)]

/-- Settles O53. -/
theorem cbcEncryptionChains : Obligations.CbcEncryptionChains := by
  intro kt key iv0 m _ hm bs r blk
  have hlen : r.1.length = m.length := cbcEnc_length key iv0 hm
  refine ⟨hlen, fun i hi => ?_, ?_⟩
  · have hblk (j : Nat) (hj : j < m.length / bs) : blk r.1 j = (cbcEncBlocks kt key iv0 (blocks bs m)).getD j [] := by
      rw [← blocks_cbcEnc, blocks_getD (hlen ▸ hj)]
    have hprev : (if i = 0 then iv0 else blk r.1 (i - 1)) =
        if i = 0 then iv0 else (cbcEncBlocks kt key iv0 (blocks bs m)).getD (i - 1) [] := by
      rw [hblk _ (by omega)]
    rw [hblk i hi, hprev, cbcEncBlocks_getD kt key iv0 (by rwa [blocks_length]), blocks_getD hi]
  · rw [← hlen]
    exact (cbcEnc_snd kt key iv0 m).trans (blocks_getLastD_eq_drop (hlen ▸ hm) iv0)

/-- R162: decryption of the ciphertext gives the message and hands on what the encryption handed on. -/
theorem cbcDec_cbcEnc {kt : KeyType} (key : Vector Byte 24) {iv0 m : Bytes} (hiv : iv0.length = blockSize kt)
    (hm : m.length % blockSize kt = 0) :
    cbcDec kt key iv0 (cbcEnc kt key iv0 m).1 = (m, (cbcEnc kt key iv0 m).2) := by
  rw [cbcDec, ← cbcEnc_snd, blocks_cbcEnc, cbcDecBlocks_cbcEncBlocks kt key hiv fun _ => length_of_mem_blocks,
    flatten_blocks hm]

/-- Settles O54. -/
theorem cbcDecryptionUndoesEncryption : Obligations.CbcDecryptionUndoesEncryption := by
  intro kt key iv0 m hiv hm bs blk
  have hlen : (cbcDec kt key iv0 m).1.length = m.length := by
    rw [cbcDec_bytes_length key m hiv, Nat.div_mul_cancel (Nat.dvd_of_mod_eq_zero hm)]
  have hundo := cbcDec_cbcEnc key hiv hm
  refine ⟨⟨hlen, fun i hi => ?_, blocks_getLastD_eq_drop hm iv0⟩, by rw [hundo], by rw [hundo]⟩
  have hprev : (if i = 0 then iv0 else blk m (i - 1)) = if i = 0 then iv0 else (blocks bs m).getD (i - 1) [] := by
    rw [blocks_getD (by omega)]
  calc blk (cbcDec kt key iv0 m).1 i
      = (cbcDecBlocks kt key iv0 (blocks bs m)).getD i [] := by rw [← blocks_cbcDec key hiv, blocks_getD (hlen ▸ hi)]
    _ = xorBytes (blkDec kt key (blk m i)) (if i = 0 then iv0 else blk m (i - 1)) := by
        rw [cbcDecBlocks_getD kt key iv0 (by rwa [blocks_length]), hprev, blocks_getD hi]

/-- R168: an encryption cut at a block boundary. -/
theorem cbcEnc_append {kt : KeyType} (key : Vector Byte 24) (iv0 : Bytes) {m1 : Bytes} (h : m1.length % blockSize kt = 0)
    (m2 : Bytes) :
    cbcEnc kt key iv0 (m1 ++ m2) =
      ((cbcEnc kt key iv0 m1).1 ++ (cbcEnc kt key (cbcEnc kt key iv0 m1).2 m2).1,
        (cbcEnc kt key (cbcEnc kt key iv0 m1).2 m2).2) := by
  simp only [cbcEnc, blocks_append (blockSize_pos kt) h, cbcEncBlocks_append, List.flatten_append, getLastD_append]

/-- R168: a decryption cut at a block boundary. -/
theorem cbcDec_append {kt : KeyType} (key : Vector Byte 24) (iv0 : Bytes) {m1 : Bytes} (h : m1.length % blockSize kt = 0)
    (m2 : Bytes) :
    cbcDec kt key iv0 (m1 ++ m2) =
      ((cbcDec kt key iv0 m1).1 ++ (cbcDec kt key (cbcDec kt key iv0 m1).2 m2).1,
        (cbcDec kt key (cbcDec kt key iv0 m1).2 m2).2) := by
  simp only [cbcDec, blocks_append (blockSize_pos kt) h, cbcDecBlocks_append, List.flatten_append, getLastD_append]

/-- Settles O55. -/
theorem chainsFragment : Obligations.ChainsFragment := fun _ key iv0 _ m2 h1 _ =>
  ⟨cbcEnc_append key iv0 h1 m2, cbcDec_append key iv0 h1 m2⟩

end Sys2Proof.Machine
end

section
/-! PROOFS. CBC commands that follow one another (R160, R162, R164 to R166, R168): what each command leaves behind, and
the chain the next one runs from there. -/

namespace Sys2Proof.Machine

/-! ### Buffers and byte strings (R34, R67) -/

theorem Memory.readBytes_getD (m : Memory) (i n k : Nat) :
    (Memory.readBytes m i n).getD k 0 = if k < n then Memory.read m (i + k) else 0 :=
  byteTable_getD _ _ _

/-- R67: a buffer that holds a byte string from index 0 up. -/
theorem Memory.readBytes_eq_of_read {m : Memory} {b : Bytes} (h : ∀ k, k < b.length → Memory.read m k = b.getD k 0) :
    Memory.readBytes m 0 b.length = b := by
  refine List.ext_getElem (byteTable_length _ _) fun k _ hk => ?_
  simp only [Memory.readBytes, byteTable, List.getElem_map, List.getElem_range, Nat.zero_add]
  rw [h k hk, List.getD_eq_getElem _ _ hk]

/-- R67: bytes put into a buffer in two pieces. -/
theorem Memory.readBytes_eq_append {whole m1 m2 : Memory} {n1 n2 : Nat}
    (h1 : ∀ k, k < n1 → Memory.read whole k = Memory.read m1 k)
    (h2 : ∀ k, k < n2 → Memory.read whole (n1 + k) = Memory.read m2 k) :
    Memory.readBytes whole 0 (n1 + n2) = Memory.readBytes m1 0 n1 ++ Memory.readBytes m2 0 n2 := by
  simp only [Memory.readBytes, byteTable, Nat.zero_add, List.range_add, List.map_append, List.map_map]
  exact congrArg₂ _ (List.map_congr_left fun k hk => h1 k (List.mem_range.mp hk))
    (List.map_congr_left fun k hk => h2 k (List.mem_range.mp hk))

/-- R163: the message of a CBC encryption, byte by byte: the input and then zeros. -/
theorem State.message_getD (s : State) (c : CtxSel) (pad : Bool) (len k : Nat) :
    (s.message c pad len).getD k 0 = if k < len then Memory.read s.din k else 0 := by
  have hlen : (Memory.readBytes s.din 0 len).length = len := byteTable_length _ _
  rw [State.message_eq]
  by_cases hk : k < len
  · rw [List.getD_append _ _ _ _ (hlen.symm ▸ hk), Memory.readBytes_getD, if_pos hk, if_pos hk, Nat.zero_add]
  · rw [List.getD_append_right _ _ _ _ (hlen.symm ▸ Nat.le_of_not_lt hk), if_neg hk]
    exact zeros_getD _ _

/-- R163: padding only adds to the input. -/
theorem State.le_message_length (s : State) (c : CtxSel) (pad : Bool) (len : Nat) :
    len ≤ (s.message c pad len).length := by
  rw [State.message_eq, List.length_append]
  exact (byteTable_length len _).symm.le.trans (Nat.le_add_right _ _)

theorem Config.bufBytes_lt (cfg : Config) : cfg.bufBytes < 2 ^ 16 := by
  have := cfg.bufUnits.isLt
  rw [Config.bufBytes]
  omega

theorem State.Inv.dout_wf {s : State} (h : s.Inv) : Memory.wf s.dout := by
  obtain ⟨-, -, ⟨-, hwf, -⟩, -⟩ := h
  exact hwf

theorem State.setDin_ctx (s : State) (m : Memory) (c : CtxSel) : State.ctx { s with din := m } c = s.ctx c := by
  cases c <;> rfl

/-! ### What a command leaves behind (R34, R164) -/

/-- R34, R164: `t` is left by a command of context `c` with `UIV` that ran in `s`, where `chain` is its output and the
value its chain handed on. -/
structure State.LeftByChain (s t : State) (c : CtxSel) (chain : Bytes × Bytes) : Prop where
  selected : t.ctx c = { s.ctx c with iv := if 0 < chain.1.length then fixBytes 16 chain.2 else (s.ctx c).iv }
  other : ∀ d, d ≠ c → t.ctx d = s.ctx d
  read : ∀ k, k < chain.1.length → Memory.read t.dout k = chain.1.getD k 0
  outlen : t.outlen = BitVec.ofNat 16 chain.1.length
  cfg : t.cfg = s.cfg

theorem exec_leftByChain {i : Instr} {s t : State} {c : CtxSel} {chain : Bytes × Bytes} (hc : preChecks i s = none)
    (hv : verifyFails i s = false) (hw : commandWrites i s = (s.output chain.1).writeBackIv c true chain.1.length chain.2)
    (hwf : Memory.wf s.dout) (h : exec i s = .next t) : s.LeftByChain t c chain := by
  obtain ⟨t', hexec, ht', hread, -⟩ := exec_output_writeBackIv hc hv hw rfl hwf
  obtain rfl : t' = t := Host.Outcome.next.inj (hexec.symm.trans h)
  have hctx (d : CtxSel) : t'.ctx d =
      if d = c then { s.ctx c with iv := if 0 < chain.1.length then fixBytes 16 chain.2 else (s.ctx c).iv }
      else s.ctx d := by
    rw [ht']
    cases c <;> cases d <;> simp [State.ctx, State.setCtx]
  refine ⟨by rw [hctx, if_pos rfl], fun d hd => by rw [hctx, if_neg hd], hread, ?_, ?_⟩ <;> rw [ht']
  exact State.setCtx_cfg _ _ _

/-- R34: an output fits OUTLEN where it fits the buffer. -/
theorem State.LeftByChain.outlen_toNat {s t : State} {c : CtxSel} {chain : Bytes × Bytes} (h : s.LeftByChain t c chain)
    (hle : chain.1.length ≤ s.cfg.bufBytes) : t.outlen.toNat = chain.1.length := by
  rw [h.outlen, BitVec.toNat_ofNat, Nat.mod_eq_of_lt (hle.trans_lt (Config.bufBytes_lt s.cfg))]

/-- R165: CBC.ENC with UIV leaves its output and the value it hands on. -/
theorem exec_cbcEnc_leftByChain {s t : State} {c : CtxSel} {ziv pad : Bool} {len : Nat} (hkv : (s.ctx c).kv = true)
    (hwf : Memory.wf s.dout) (hle : len ≤ s.cfg.bufBytes) (hpad : pad = true ∨ len % blockSize (s.ctx c).kt = 0)
    (h : exec (.cbcEnc c true ziv pad len) s = .next t) : s.LeftByChain t c (s.cbcEncChain c ziv pad len) :=
  exec_leftByChain (preChecks_cbcEnc true ziv hkv hle hpad) rfl (by rw [State.cbcEncChain_length hpad]; rfl) hwf h

/-- R166: CBC.DEC with UIV, a key and whole blocks completes and leaves its output and the value it hands on. -/
theorem exists_cbcDec_leftByChain {s : State} {c : CtxSel} (ziv : Bool) {len : Nat} (hkv : (s.ctx c).kv = true)
    (hwf : Memory.wf s.dout) (hle : len ≤ s.cfg.bufBytes) (hlen : len % blockSize (s.ctx c).kt = 0) :
    ∃ t, exec (.cbcDec c true ziv len) s = .next t ∧ s.LeftByChain t c (s.cbcDecChain c ziv len) := by
  have hc : preChecks (.cbcDec c true ziv len) s = none :=
    State.checkKeyed_none.mpr ⟨hkv, hle, State.ragged_false.mpr hlen⟩
  have hexec := exec_of_passes hc rfl
  exact ⟨_, hexec, exec_leftByChain hc rfl (by rw [State.cbcDecChain_length hlen]; rfl) hwf hexec⟩

/-! ### Sender and receiver (R162) -/

theorem State.startIv_congr {s t : State} {c d : CtxSel} (h : t.ctx d = s.ctx c) (ziv : Bool) :
    t.startIv d ziv = s.startIv c ziv := by
  rw [State.startIv, h, State.startIv]

/-- R162: with the sender's context and the sender's ciphertext as input, CBC.DEC has the sender's message as its output
and the sender's final block as the value it hands on. -/
theorem State.cbcDecChain_of_cbcEncChain {s t : State} {c d : CtxSel} {ziv pad : Bool} {len : Nat}
    (hctx : t.ctx d = s.ctx c) (hpad : pad = true ∨ len % blockSize (s.ctx c).kt = 0)
    (hin : t.input (s.message c pad len).length = (s.cbcEncChain c ziv pad len).1) :
    t.cbcDecChain d ziv (s.message c pad len).length = (s.message c pad len, (s.cbcEncChain c ziv pad len).2) := by
  rw [State.cbcDecChain, hin, hctx, State.startIv_congr hctx, State.cbcEncChain]
  exact cbcDec_cbcEnc _ (s.startIv_length c ziv) (State.message_length_mod hpad)

/-- Settles O56: the receiver's chain undoes the sender's, and both IVs become the sender's final block. -/
theorem senderAndReceiverStayInStep : Obligations.SenderAndReceiverStayInStep := by
  intro s t ziv pad len hinv hkv hsame hle hpad hexec
  change (s.ctx .s).kv = true at hkv
  change pad = true ∨ len % blockSize (s.ctx .s).kt = 0 at hpad
  have hsend := exec_cbcEnc_leftByChain hkv hinv.dout_wf hle hpad hexec
  have hlen := State.cbcEncChain_length (ziv := ziv) hpad
  have hfit := State.message_length_le hle .s pad
  have hge := s.le_message_length .s pad len
  set r : State := { t with din := t.dout }
  have hrctx (d : CtxSel) : r.ctx d = t.ctx d := t.setDin_ctx t.dout d
  have hrx : r.ctx .x = s.ctx .s := by
    rw [hrctx, hsend.other .x (by decide)]
    exact hsame
  have hin : r.input (s.message .s pad len).length = (s.cbcEncChain .s ziv pad len).1 :=
    hlen ▸ Memory.readBytes_eq_of_read hsend.read
  obtain ⟨u, hexec', hrecv⟩ := exists_cbcDec_leftByChain (s := r) (c := .x) ziv (hrx ▸ hkv) (exec_inv hinv hexec).dout_wf
    (hfit.trans_eq (congrArg Config.bufBytes hsend.cfg.symm)) (hrx ▸ State.message_length_mod hpad)
  rw [State.cbcDecChain_of_cbcEncChain hrx hpad hin] at hrecv
  have hread (k : Nat) (hk : k < (s.message .s pad len).length) :
      Memory.read u.dout k = if k < len then Memory.read s.din k else 0 :=
    (hrecv.read k hk).trans (s.message_getD .s pad len k)
  have hivs : u.ctx .x = u.ctx .s := by
    rw [hrecv.selected, hrecv.other .s (by decide), hrx, hrctx, hsend.selected, hlen]
  rw [(hsend.outlen_toNat (hlen.trans_le hfit)).trans hlen]
  refine ⟨u, hexec', hivs, ?_, hge, fun k hk => ?_, fun k hk hlt => ?_⟩
  · rw [hrecv.outlen, hsend.outlen, hlen]
  · rw [hread k (hk.trans_le hge), if_pos hk]
  · rw [hread k hlt, if_neg (Nat.not_lt.mpr hk)]

/-! ### A transfer in two fragments (R168) -/

/-- R25: a masked register is given back by the bytes it does not mask. -/
theorem fixBytes_take_of_masked {n m : Nat} {v : Vector Byte n} (h : ∀ k, m ≤ k → v.getD k 0 = 0) :
    fixBytes n (v.toList.take m) = v := by
  refine Vector.ext fun i hi => ?_
  by_cases him : i < m
  · simp [fixBytes, hi, him]
  · have hzero : v[i] = 0 := by simpa [Vector.getD, hi] using h i (Nat.le_of_not_lt him)
    simp [fixBytes, him, hzero]

/-- R164: a chain that ran over no block hands on the value it started from. -/
theorem State.cbcEncChain_last_of_empty {s : State} {c : CtxSel} {ziv pad : Bool} {len : Nat}
    (h : (s.message c pad len).length = 0) : (s.cbcEncChain c ziv pad len).2 = s.startIv c ziv := by
  rw [State.cbcEncChain, List.eq_nil_of_length_eq_zero h, cbcEnc, blocks_nil]
  rfl

/-- R164: CBC.ENC with UIV and from the carried IV leaves the value it hands on in the IV, whether or not there was a
block. -/
theorem State.LeftByChain.ctx_eq {s t : State} {c : CtxSel} {pad : Bool} {len : Nat}
    (h : s.LeftByChain t c (s.cbcEncChain c false pad len)) (hkv : (s.ctx c).kv = true) (hmask : (s.ctx c).ivMasked)
    (hpad : pad = true ∨ len % blockSize (s.ctx c).kt = 0) :
    t.ctx c = { s.ctx c with iv := fixBytes 16 (s.cbcEncChain c false pad len).2 } := by
  rw [h.selected, State.cbcEncChain_length hpad]
  rcases Nat.eq_zero_or_pos (s.message c pad len).length with h0 | hpos
  · have hiv : fixBytes 16 (s.startIv c false) = (s.ctx c).iv :=
      fixBytes_take_of_masked (by rwa [Ctx.ivMasked, Ctx.bsc_of_kv hkv] at hmask)
    rw [State.cbcEncChain_last_of_empty h0, hiv, ite_self]
  · rw [if_pos hpos]

/-- R160, R164: a block left in the IV is where the next command starts from. -/
theorem State.startIv_of_iv {t : State} {c : CtxSel} {x : Ctx} {last : Bytes}
    (h : t.ctx c = { x with iv := fixBytes 16 last }) (hlast : last.length = blockSize x.kt) :
    t.startIv c false = last := by
  rw [State.startIv, h, if_neg Bool.false_ne_true, ← hlast]
  exact fixBytes_toList_take (hlast ▸ blockSize_le x.kt)

/-- R168: the chain over both fragments together, from the chains of the two commands. -/
theorem State.cbcEncChain_add {s t v : State} {c : CtxSel} {n m : Nat} (hv : v.ctx c = s.ctx c)
    (ht : t.ctx c = { s.ctx c with iv := fixBytes 16 (s.cbcEncChain c false false n).2 })
    (hn : n % blockSize (s.ctx c).kt = 0) (hin : v.input (n + m) = s.input n ++ t.input m) :
    v.cbcEncChain c false false (n + m) =
      ((s.cbcEncChain c false false n).1 ++ (t.cbcEncChain c false false m).1, (t.cbcEncChain c false false m).2) := by
  have hstart := State.startIv_of_iv ht (s.cbcEncChain_last_length c false false n)
  have hmessage (s : State) (len : Nat) : s.message c false len = s.input len := rfl
  have hsecond : t.cbcEncChain c false false m =
      cbcEnc (s.ctx c).kt (s.ctx c).key (s.cbcEncChain c false false n).2 (t.input m) := by
    rw [State.cbcEncChain, hstart, ht, hmessage]
  rw [hsecond, State.cbcEncChain, hmessage, hin, hv, State.startIv_congr hv]
  exact cbcEnc_append _ _ (by rwa [State.input_length]) _

/-- R165: without PAD the ciphertext is as long as the input. -/
theorem State.cbcEncChain_length_of_whole {s : State} {c : CtxSel} {len : Nat} (ziv : Bool)
    (h : len % blockSize (s.ctx c).kt = 0) : (s.cbcEncChain c ziv false len).1.length = len :=
  (State.cbcEncChain_length (.inr h)).trans (s.input_length len)

/-- Settles O57: the second command starts from the block the first left in the IV. -/
theorem fragmentedTransferIsOneTransfer : Obligations.FragmentedTransferIsOneTransfer := by
  intro s t u w c n m next whole hinv hkv hn hm hle hfirst hsecond ht hu hw
  have hnm : (n + m) % blockSize (s.ctx c).kt = 0 := by rw [Nat.add_mod, hn, hm, Nat.zero_mod]
  have hinvt := exec_inv hinv ht
  have hleft := exec_cbcEnc_leftByChain hkv hinv.dout_wf ((Nat.le_add_right n m).trans hle) (.inr hn) ht
  have hctxt := hleft.ctx_eq hkv (hinv.1 c) (.inr hn)
  set r : State := { t with din := next }
  set v : State := { s with din := whole }
  have hctxr : r.ctx c = t.ctx c := t.setDin_ctx next c
  have hctxv : v.ctx c = s.ctx c := s.setDin_ctx whole c
  have hkvr : (r.ctx c).kv = true := by rw [hctxr, hctxt]; exact hkv
  have hmr : m % blockSize (r.ctx c).kt = 0 := by rw [hctxr, hctxt]; exact hm
  have hmle : m ≤ r.cfg.bufBytes := (Nat.le_add_left m n).trans (hleft.cfg ▸ hle)
  have hleftu := exec_cbcEnc_leftByChain hkvr hinvt.dout_wf hmle (.inr hmr) hu
  have hleftw := exec_cbcEnc_leftByChain (s := v) (hctxv ▸ hkv) hinv.dout_wf hle (.inr (hctxv ▸ hnm)) hw
  have hctxu := hleftu.ctx_eq hkvr (hctxr ▸ hinvt.1 c) (.inr hmr)
  have hctxw := hleftw.ctx_eq (hctxv ▸ hkv) (hctxv ▸ hinv.1 c) (.inr (hctxv ▸ hnm))
  have hwhole := State.cbcEncChain_add hctxv (hctxr.trans hctxt) hn (Memory.readBytes_eq_append hfirst hsecond)
  have hlen1 := State.cbcEncChain_length_of_whole false hn
  have hlen2 := State.cbcEncChain_length_of_whole false hmr
  have hread (k : Nat) (hk : k < n + m) : Memory.read w.dout k =
      ((s.cbcEncChain c false false n).1 ++ (r.cbcEncChain c false false m).1).getD k 0 := by
    rw [hleftw.read k (by rwa [hwhole, List.length_append, hlen1, hlen2]), hwhole]
  refine ⟨?_, fun k hk => ?_, fun k hk => ?_⟩
  · rw [hctxw, hwhole, hctxv, hctxu, hctxr, hctxt]
  · rw [hread k (hk.trans_le (Nat.le_add_right n m)), List.getD_append _ _ _ _ (hlen1.symm ▸ hk),
      hleft.read k (hlen1.symm ▸ hk)]
  · rw [hread _ (Nat.add_lt_add_left hk n), List.getD_append_right _ _ _ _ (hlen1.symm ▸ Nat.le_add_right n k), hlen1,
      Nat.add_sub_cancel_left, hleftu.read k (hlen2.symm ▸ hk)]

end Sys2Proof.Machine
end

section
/-! PROOFS. The arithmetic of CMAC (R181, R183): the doubling as one shift of a big-endian number, and the message the chain
runs over, byte by byte. -/

namespace Sys2Proof.Machine

/-! ### The doubling (R181) -/

/-- A number below `256 ^ len(B)` with the bits of the bytes of `B` is `be(B)`. -/
theorem be_eq_of_testBit {b : Bytes} {v : Nat} (hv : v < 256 ^ b.length)
    (h : ∀ p q, p < b.length → q < 8 → (b.getD (b.length - 1 - p) 0).getLsbD q = v.testBit (8 * p + q)) :
    be b = v := by
  have hpow : 256 ^ b.length = 2 ^ (8 * b.length) := by rw [Nat.pow_mul]
  apply Nat.eq_of_testBit_eq
  intro k
  by_cases hk : k < 8 * b.length
  · have hbit := be_testBit b (p := k / 8) (q := k % 8) (by omega) (by omega)
    rwa [h _ _ (by omega) (by omega), Nat.div_add_mod] at hbit
  · have hle : 256 ^ b.length ≤ 2 ^ k := hpow ▸ Nat.pow_le_pow_right (by decide) (by omega)
    rw [Nat.testBit_lt_two_pow ((be_lt b).trans_le hle), Nat.testBit_lt_two_pow (hv.trans_le hle)]

/-- The most significant bit of byte 0 is the most significant bit of the number. -/
theorem msb_getD_zero_iff {b : Bytes} (hb : 0 < b.length) :
    (b.getD 0 0).msb = true ↔ 2 ^ (8 * b.length - 1) ≤ be b := by
  have hbit := be_testBit b (p := b.length - 1) (q := 7) (by omega) (by decide)
  rw [Nat.sub_self, show 8 * (b.length - 1) + 7 = 8 * b.length - 1 by omega] at hbit
  rw [BitVec.msb_eq_getLsbD_last, ← hbit]
  refine ⟨Nat.ge_two_pow_of_testBit, fun h => Nat.testBit_of_two_pow_le_and_two_pow_add_one_gt h ?_⟩
  rw [Nat.sub_add_cancel (by omega), Nat.pow_mul]
  exact be_lt b

/-- A byte shifted left by one takes in the top bit of the byte after it. -/
theorem getLsbD_shiftLeft_or_top (x y : Byte) {q : Nat} (hq : q < 8) :
    ((x <<< 1) ||| (y >>> 7)).getLsbD q = if q = 0 then y.getLsbD 7 else x.getLsbD (q - 1) := by
  rw [BitVec.getLsbD_or, BitVec.getLsbD_shiftLeft, BitVec.getLsbD_ushiftRight]
  cases q with
  | zero => simp
  | succ q => simp [hq, BitVec.getLsbD_of_ge y (7 + (q + 1)) (by omega)]

/-- The bits of twice the number: each byte takes in the top bit of the byte below it. -/
theorem be_mul_two_testBit (b : Bytes) {p q : Nat} (hp : p < b.length) (hq : q < 8) :
    (be b * 2).testBit (8 * p + q) =
      ((b.getD (b.length - 1 - p) 0 <<< 1) ||| (b.getD (b.length - 1 - p + 1) 0 >>> 7)).getLsbD q := by
  have hdouble : (be b * 2).testBit (8 * p + q) = (decide (1 ≤ 8 * p + q) && (be b).testBit (8 * p + q - 1)) :=
    Nat.testBit_mul_two_pow (be b) (8 * p + q) 1
  rw [hdouble, getLsbD_shiftLeft_or_top _ _ hq]
  cases q with
  | succ q =>
    rw [decide_eq_true (by omega), Bool.true_and, if_neg q.succ_ne_zero]
    exact be_testBit b hp (by omega)
  | zero =>
    rw [if_pos rfl]
    cases p with
    | zero => rw [List.getD_eq_default _ _ (by omega)]; rfl
    | succ p =>
      rw [decide_eq_true (by omega), Bool.true_and, show 8 * (p + 1) + 0 - 1 = 8 * p + 7 by omega,
        show b.length - 1 - (p + 1) + 1 = b.length - 1 - p by omega]
      exact be_testBit b (by omega) (by decide)

/-- R181: what a doubling combines into the last byte. -/
def dblConstant (kt : KeyType) (b : Bytes) : Byte := if (b.getD 0 0).msb then rb kt else 0

/-- R181: the doubling byte by byte. -/
theorem dbl_getD {kt : KeyType} {b : Bytes} {i : Nat} (hi : i < blockSize kt) :
    (dbl kt b).getD i 0 = ((b.getD i 0 <<< 1) ||| (b.getD (i + 1) 0 >>> 7)) ^^^
      (if i + 1 = blockSize kt then dblConstant kt b else 0) := by
  rw [dbl, byteTable_getD, if_pos hi, dblConstant]
  by_cases hlast : i + 1 = blockSize kt
  · cases (b.getD 0 0).msb <;> simp [hlast]
  · simp [hlast]

/-- R181: the test on byte 0 as a test on the number. -/
theorem dblConstant_toNat (kt : KeyType) {b : Bytes} (hb : 0 < b.length) :
    (dblConstant kt b).toNat = if 2 ^ (8 * b.length - 1) ≤ be b then (rb kt).toNat else 0 := by
  rw [dblConstant, apply_ite BitVec.toNat]
  exact if_congr (msb_getD_zero_iff hb) rfl rfl

theorem dblConstant_lt (kt : KeyType) (b : Bytes) : (dblConstant kt b).toNat < 2 ^ (8 * blockSize kt) :=
  (dblConstant kt b).isLt.trans_le (Nat.pow_le_pow_right (by decide) (Nat.le_mul_of_pos_right 8 (blockSize_pos kt)))

/-- R181: the bits of the constant are those of the last byte, and no byte before it has any. -/
theorem dblConstant_testBit (kt : KeyType) (b : Bytes) {p q : Nat} (hp : p < blockSize kt) :
    (dblConstant kt b).toNat.testBit (8 * p + q) =
      BitVec.getLsbD (if blockSize kt - 1 - p + 1 = blockSize kt then dblConstant kt b else 0) q := by
  cases p with
  | zero =>
    rw [if_pos (by omega), Nat.mul_zero, Nat.zero_add]
    rfl
  | succ p =>
    rw [if_neg (by omega)]
    exact (BitVec.getLsbD_of_ge (dblConstant kt b) (8 * (p + 1) + q) (by omega)).trans BitVec.getLsbD_zero.symm

/-- R181: bit by bit, the shifted bytes are the doubled number and the constant stands in the last byte alone. -/
theorem be_dbl {kt : KeyType} {b : Bytes} (hb : b.length = blockSize kt) :
    be (dbl kt b) = (be b * 2 % 2 ^ (8 * blockSize kt)) ^^^ (dblConstant kt b).toNat := by
  apply be_eq_of_testBit
  · rw [dbl_length, show 256 = 2 ^ 8 from rfl, ← Nat.pow_mul]
    exact Nat.xor_lt_two_pow (Nat.mod_lt _ (Nat.two_pow_pos _)) (dblConstant_lt kt b)
  · intro p q hp hq
    rw [dbl_length] at hp ⊢
    rw [dbl_getD (by omega), BitVec.getLsbD_xor, Nat.testBit_xor, Nat.testBit_mod_two_pow, decide_eq_true (by omega),
      Bool.true_and, be_mul_two_testBit b (hb.symm ▸ hp) hq, hb, dblConstant_testBit kt b hp]

/-- Settles O51. -/
theorem doublingIsOneShiftOfANumber : Obligations.DoublingIsOneShiftOfANumber := by
  intro kt b hb
  refine ⟨dbl_length kt b, ?_⟩
  rw [be_dbl hb, dblConstant_toNat kt (hb ▸ blockSize_pos kt), hb]
  cases kt <;> rfl

/-! ### The message (R183) -/

/-- R183: the padded message byte by byte. -/
theorem cmacPad_getD (bs : Nat) (d : Bytes) (k : Nat) :
    (cmacPad bs d).getD k 0 = if k < d.length then d.getD k 0
      else if k = d.length ∧ d.length % bs ≠ 0 then 0x80 else 0 := by
  rw [cmacPad]
  by_cases hk : k < d.length
  · rw [if_pos hk]
    split
    · rfl
    · rw [List.append_assoc, List.getD_append _ _ _ _ hk]
  · rw [if_neg hk]
    have hle := Nat.le_of_not_lt hk
    split
    · next hmod => rw [List.getD_eq_default _ _ hle, if_neg fun h => h.2 hmod]
    · next hmod =>
      rw [List.append_assoc, List.getD_append_right _ _ _ _ hle, List.singleton_append]
      rcases hle.eq_or_lt with heq | hlt
      · rw [if_pos ⟨heq.symm, hmod⟩, ← heq, Nat.sub_self]
        rfl
      · rw [if_neg fun h => hlt.ne' h.1, show k - d.length = k - d.length - 1 + 1 by omega, List.getD_cons_succ, zeros_getD]

/-- R183: the padded message is made of whole blocks and is the shortest such that holds the data. -/
theorem cmacPad_length {bs : Nat} (hbs : 0 < bs) (d : Bytes) :
    (cmacPad bs d).length % bs = 0 ∧ d.length ≤ (cmacPad bs d).length ∧ (cmacPad bs d).length < d.length + bs := by
  by_cases hmod : d.length % bs = 0
  · rw [cmacPad, if_pos hmod]
    exact ⟨hmod, le_rfl, by omega⟩
  · have hlt := Nat.mod_lt d.length hbs
    have hlen : (cmacPad bs d).length = d.length + (bs - d.length % bs) := by
      rw [cmacPad, if_neg hmod, List.length_append, List.length_append, List.length_singleton, zeros_length]
      omega
    have hwhole : d.length + (bs - d.length % bs) = bs * (d.length / bs + 1) := by
      rw [Nat.mul_succ]
      have := Nat.div_add_mod d.length bs
      omega
    refine ⟨?_, by omega, by omega⟩
    rw [hlen, hwhole, Nat.mul_mod_right]

/-- R183: a message that is not empty ends in a block. -/
theorem le_cmacPad_length {bs : Nat} (hbs : 0 < bs) {d : Bytes} (hd : 0 < d.length) : bs ≤ (cmacPad bs d).length := by
  obtain ⟨hwhole, hle, -⟩ := cmacPad_length hbs d
  exact Nat.le_of_dvd (by omega) (Nat.dvd_of_mod_eq_zero hwhole)

theorem xorBytes_getD {a b : Bytes} (h : a.length = b.length) (j : Nat) :
    (xorBytes a b).getD j 0 = a.getD j 0 ^^^ b.getD j 0 := by
  by_cases hj : j < a.length
  · simp [xorBytes, List.getD, hj, h ▸ hj]
  · have hj := Nat.le_of_not_lt hj
    have hxor : (xorBytes a b).length = a.length := by rw [xorBytes_length, ← h, Nat.min_self]
    rw [List.getD_eq_default _ _ (hxor ▸ hj), List.getD_eq_default _ _ hj, List.getD_eq_default _ _ (h ▸ hj)]
    rfl

/-- R183: the subkey that is combined into the last block. -/
def cmacSubkey (bs : Nat) (k1 k2 d : Bytes) : Bytes := if d.length % bs = 0 then k1 else k2

section Message
variable {bs : Nat} {k1 k2 d : Bytes}

theorem cmacSubkey_length (h1 : k1.length = bs) (h2 : k2.length = bs) : (cmacSubkey bs k1 k2 d).length = bs := by
  rw [cmacSubkey]
  split
  · exact h1
  · exact h2

theorem cmacMessage_eq (bs : Nat) (k1 k2 d : Bytes) :
    cmacMessage bs k1 k2 d = (cmacPad bs d).take ((cmacPad bs d).length - bs) ++
      xorBytes ((cmacPad bs d).drop ((cmacPad bs d).length - bs)) (cmacSubkey bs k1 k2 d) := rfl

/-- R183: combining the subkey keeps the length. -/
theorem cmacMessage_length (h1 : k1.length = bs) (h2 : k2.length = bs) (hle : bs ≤ (cmacPad bs d).length) :
    (cmacMessage bs k1 k2 d).length = (cmacPad bs d).length := by
  rw [cmacMessage_eq, List.length_append, List.length_take, xorBytes_length, List.length_drop,
    cmacSubkey_length h1 h2]
  omega

/-- R183: the blocks before the last are those of the padded message. -/
theorem cmacMessage_getD_of_lt {i : Nat} (hi : i < (cmacPad bs d).length - bs) :
    (cmacMessage bs k1 k2 d).getD i 0 = (cmacPad bs d).getD i 0 := by
  rw [cmacMessage_eq, List.getD_append _ _ _ _ (by rw [List.length_take]; omega), List.getD_eq_getElem?_getD,
    List.getElem?_take_of_lt hi, ← List.getD_eq_getElem?_getD]

/-- R183: the last block is that of the padded message, combined with the subkey. -/
theorem cmacMessage_getD_last (h1 : k1.length = bs) (h2 : k2.length = bs) (hle : bs ≤ (cmacPad bs d).length) (j : Nat) :
    (cmacMessage bs k1 k2 d).getD ((cmacPad bs d).length - bs + j) 0 =
      (cmacPad bs d).getD ((cmacPad bs d).length - bs + j) 0 ^^^ (cmacSubkey bs k1 k2 d).getD j 0 := by
  have htake : ((cmacPad bs d).take ((cmacPad bs d).length - bs)).length = (cmacPad bs d).length - bs := by
    rw [List.length_take]
    omega
  have hdrop : ((cmacPad bs d).drop ((cmacPad bs d).length - bs)).length = (cmacSubkey bs k1 k2 d).length := by
    rw [List.length_drop, cmacSubkey_length h1 h2]
    omega
  rw [cmacMessage_eq, List.getD_append_right _ _ _ _ (htake.symm ▸ Nat.le_add_right _ _), htake, Nat.add_sub_cancel_left,
    xorBytes_getD hdrop, List.getD_eq_getElem?_getD, List.getElem?_drop, ← List.getD_eq_getElem?_getD]

end Message

/-- Settles O52: the message is the padded data but for the last block, where the subkey is combined. -/
theorem cmacPaddingChoosesSubkey : Obligations.CmacPaddingChoosesSubkey := by
  intro bs k1 k2 d hbs hd h1 h2 m
  have hle := le_cmacPad_length hbs hd
  obtain ⟨hwhole, hdata, hshort⟩ := cmacPad_length hbs d
  have hlen : m.length = (cmacPad bs d).length := cmacMessage_length h1 h2 hle
  rw [hlen]
  refine ⟨hwhole, hdata, hshort, fun i hi => ?_, fun j hj => ?_⟩
  · rw [cmacMessage_getD_of_lt hi, cmacPad_getD, if_pos (by omega)]
  · rw [cmacMessage_getD_last h1 h2 hle, cmacSubkey, cmacPad_getD]
    by_cases hmod : d.length % bs = 0
    · have hpad : (cmacPad bs d).length = d.length := by rw [cmacPad, if_pos hmod]
      rw [if_pos hmod, if_pos hmod, if_pos (by omega)]
    · simp only [hmod, if_false, ne_eq, not_false_eq_true, and_true]

end Sys2Proof.Machine
end

section
/-! PROOFS. The CRC generators (R201, R204, R209). The shifts of a register are additive over exclusive or, and while the
bits they shift out are 0 they only move it down. From these two facts come the table-driven form of an update, its byte
form, and what the bytes of a value leave in the register. -/

namespace Sys2Proof.Machine

/-! ### The shifts of a register (R201, R204) -/

section
variable {w : Nat} (poly : BitVec w)

/-- R201, R204: whether a shift combines the polynomial depends on the bit shifted out alone. -/
theorem crcShift_xor (a b : BitVec w) : crcShift poly (a ^^^ b) = crcShift poly a ^^^ crcShift poly b := by
  have htwice : a >>> 1 ^^^ b >>> 1 = (a >>> 1 ^^^ poly) ^^^ (b >>> 1 ^^^ poly) := by
    rw [BitVec.xor_assoc, BitVec.xor_comm (b >>> 1), ← BitVec.xor_assoc poly, BitVec.xor_self, BitVec.zero_xor]
  unfold crcShift
  rw [BitVec.getLsbD_xor, BitVec.ushiftRight_xor_distrib]
  cases a.getLsbD 0 <;> cases b.getLsbD 0
  · rfl
  · exact BitVec.xor_assoc _ _ _
  · exact (BitVec.xor_assoc _ _ _).trans ((congrArg _ (BitVec.xor_comm _ _)).trans (BitVec.xor_assoc _ _ _).symm)
  · exact htwice

theorem crcShifts_xor (n : Nat) (a b : BitVec w) :
    crcShifts poly n (a ^^^ b) = crcShifts poly n a ^^^ crcShifts poly n b := by
  induction n generalizing a b with
  | zero => rfl
  | succ n ih => rw [crcShifts, crcShift_xor, ih]; rfl

theorem crcShifts_zero (n : Nat) : crcShifts poly n 0#w = 0#w := by
  have h := crcShifts_xor poly n 0 0
  rwa [BitVec.xor_self, BitVec.xor_self] at h

theorem crcShifts_add (m n : Nat) (a : BitVec w) : crcShifts poly (m + n) a = crcShifts poly n (crcShifts poly m a) := by
  induction m generalizing a with
  | zero => rw [Nat.zero_add]; rfl
  | succ m ih => rw [Nat.succ_add]; exact ih _

/-- R201, R204: the polynomial is not combined while the bits shifted out are 0. -/
theorem crcShifts_of_low_zero {n : Nat} {a : BitVec w} (h : ∀ i < n, a.getLsbD i = false) :
    crcShifts poly n a = a >>> n := by
  induction n generalizing a with
  | zero => exact a.ushiftRight_zero.symm
  | succ n ih =>
    have hout : crcShift poly a = a >>> 1 := if_neg (by rw [h 0 n.succ_pos]; decide)
    have hlow : ∀ i < n, (a >>> 1).getLsbD i = false := fun i hi => by
      rw [BitVec.getLsbD_ushiftRight]
      exact h (1 + i) (by omega)
    rw [crcShifts, hout, ih hlow, Nat.add_comm n, BitVec.shiftRight_add]

/-- The high bits of a register move down; its low bits choose what is combined with them. -/
theorem crcShifts_eq_ushiftRight_xor (n : Nat) (a : BitVec w) :
    crcShifts poly n a = (a >>> n) ^^^ crcShifts poly n ((a.extractLsb' 0 n).setWidth w) := by
  have hbit : ∀ i, (a ^^^ (a.extractLsb' 0 n).setWidth w).getLsbD i = (decide (n ≤ i) && a.getLsbD i) := fun i => by
    by_cases hi : n ≤ i
    · simp [hi]
    · have hi' := Nat.not_le.mp hi
      by_cases hw : i < w
      · simp [hi, hi', hw]
      · simp [hi, BitVec.getLsbD_of_ge _ _ (Nat.le_of_not_lt hw)]
  have hlow : ∀ i < n, (a ^^^ (a.extractLsb' 0 n).setWidth w).getLsbD i = false := fun i hi => by
    rw [hbit, decide_eq_false (Nat.not_le.mpr hi), Bool.false_and]
  have hhigh : (a ^^^ (a.extractLsb' 0 n).setWidth w) >>> n = a >>> n := by
    refine BitVec.eq_of_getLsbD_eq fun i hi => ?_
    rw [BitVec.getLsbD_ushiftRight, BitVec.getLsbD_ushiftRight, hbit, decide_eq_true (Nat.le_add_right n i),
      Bool.true_and]
  rw [← hhigh, ← crcShifts_of_low_zero poly hlow, ← crcShifts_xor, BitVec.xor_assoc, BitVec.xor_self, BitVec.xor_zero]

/-! ### One byte (R201, R204) -/

/-- R204: the table-driven form, for a register of any width. -/
theorem crcByte_eq_table (a : BitVec w) (b : Byte) :
    crcByte poly a b = (a >>> 8) ^^^ crcShifts poly 8 ((a.extractLsb' 0 8 ^^^ b).setWidth w) := by
  rw [crcByte, crcShifts_xor, crcShifts_eq_ushiftRight_xor poly 8 a, BitVec.xor_assoc, ← crcShifts_xor,
    BitVec.setWidth_xor]

/-- The byte that goes in and the bits the eight shifts leave for later, combined before the shifts or after. -/
theorem crcByte_low_xor_ushiftRight (a v : BitVec w) :
    crcByte poly a (v.extractLsb' 0 8) ^^^ (v >>> 8) = crcShifts poly 8 (a ^^^ v) := by
  rw [crcByte, crcShifts_xor, crcShifts_xor, crcShifts_eq_ushiftRight_xor poly 8 v, BitVec.xor_assoc,
    BitVec.xor_comm (v >>> 8)]

end

/-- R201: the eight shifts of a byte in the CRC16 register, from the byte form's three terms. -/
theorem crcShifts_crc16_byte : ∀ t0 : Byte,
    crcShifts (0x8408 : BitVec 16) 8 (t0.setWidth 16) =
      ((t0 ^^^ (t0 <<< 4)).setWidth 16 <<< 8) ^^^ ((t0 ^^^ (t0 <<< 4)).setWidth 16 <<< 3) ^^^
        ((t0 ^^^ (t0 <<< 4)).setWidth 16 >>> 4) := by
  decide

/-! ### The bytes of a value (R202, R206, R209) -/

/-- R202, R206: the bytes of a value, low byte first. -/
theorem leBytes_succ {w : Nat} (n : Nat) (v : BitVec w) :
    leBytes (n + 1) v = v.extractLsb' 0 8 :: leBytes n (v >>> 8) := by
  unfold leBytes byteTable
  rw [List.range_succ_eq_map, List.map_cons, List.map_map]
  refine congrArg _ (List.map_congr_left fun j _ => ?_)
  refine BitVec.eq_of_getLsbD_eq fun i hi => ?_
  simp [hi, Nat.mul_succ, Nat.add_comm, Nat.add_left_comm]

/-- R209: running over all the bytes of a value is shifting the register combined with the value. -/
theorem foldl_crcByte_leBytes {w : Nat} (poly : BitVec w) {n : Nat} (a : BitVec w) {v : BitVec w}
    (hv : v >>> (8 * n) = 0) :
    (leBytes n v).foldl (crcByte poly) a = crcShifts poly (8 * n) (a ^^^ v) := by
  induction n generalizing a v with
  | zero =>
    rw [Nat.mul_zero, BitVec.ushiftRight_zero] at hv
    subst hv
    exact BitVec.xor_zero.symm
  | succ n ih =>
    have hrest : (v >>> 8) >>> (8 * n) = 0 := by rw [← BitVec.shiftRight_add, Nat.add_comm]; exact hv
    rw [leBytes_succ, List.foldl_cons, ih _ hrest, crcByte_low_xor_ushiftRight, ← crcShifts_add, Nat.mul_succ,
      Nat.add_comm]

theorem crc16Upd_append (a : BitVec 16) (d e : Bytes) : crc16Upd a (d ++ e) = crc16Upd (crc16Upd a d) e :=
  List.foldl_append

theorem crc32Upd_append (a : BitVec 32) (d e : Bytes) : crc32Upd a (d ++ e) = crc32Upd (crc32Upd a d) e :=
  List.foldl_append

theorem crc16Upd_leBytes (a v : BitVec 16) : crc16Upd a (leBytes 2 v) = crcShifts 0x8408 16 (a ^^^ v) :=
  foldl_crcByte_leBytes 0x8408 a (BitVec.ushiftRight_eq_zero le_rfl)

theorem crc32Upd_leBytes (a v : BitVec 32) : crc32Upd a (leBytes 4 v) = crcShifts 0xEDB88320 32 (a ^^^ v) :=
  foldl_crcByte_leBytes 0xEDB88320 a (BitVec.ushiftRight_eq_zero le_rfl)

/-! ### The forms of an update -/

/-- Settles O58: the table-driven form at CRC16's polynomial, whose table is the byte form's three terms. -/
theorem crc16ByteForm : Obligations.Crc16ByteForm := by
  refine ⟨fun a b => ?_, by decide, by decide, fun a d1 d2 => (crc16Upd_append a d1 d2).symm⟩
  change crcByte 0x8408 a b = _
  rw [crcByte_eq_table, BitVec.xor_comm (a.extractLsb' 0 8), crcShifts_crc16_byte, ← BitVec.xor_assoc,
    ← BitVec.xor_assoc]

/-- Settles O59: the table-driven form at CRC32's polynomial. -/
theorem crc32TableForm : Obligations.Crc32TableForm :=
  ⟨crcByte_eq_table 0xEDB88320, by decide, by decide, by decide, by decide, by decide, by decide,
    fun a d1 d2 => (crc32Upd_append a d1 d2).symm⟩

/-! ### The residues (R209) -/

/-- R209: the appended bytes cancel the register. -/
theorem crc16Upd_append_own_bytes (a : BitVec 16) (d : Bytes) : crc16Upd a (d ++ leBytes 2 (crc16Upd a d)) = 0 := by
  rw [crc16Upd_append, crc16Upd_leBytes, BitVec.xor_self, crcShifts_zero]
  rfl

/-- R209: the appended bytes cancel the register but for the ones of the finalization. -/
theorem crc32Upd_append_own_bytes (a : BitVec 32) (d : Bytes) :
    crc32Upd a (d ++ leBytes 4 (crc32Final (crc32Upd a d))) = 0xDEBB20E3 := by
  have hres : crcShifts (0xEDB88320 : BitVec 32) 32 0xFFFFFFFF = 0xDEBB20E3 := by decide +kernel
  rw [crc32Upd_append, crc32Upd_leBytes, crc32Final, ← BitVec.xor_assoc, BitVec.xor_self, BitVec.zero_xor, hres]

/-- R111, R224: a command that verifies nothing ends with the error of a check, or leaves the error code as it is. -/
theorem exec_errcode {i : Instr} {s t : State} (hv : verifyFails i s = false) (h : exec i s = .next t) :
    (∃ e, preChecks i s = some e ∧ t.errcode = e.code) ∨ (preChecks i s = none ∧ t.errcode = s.errcode) := by
  cases hc : preChecks i s with
  | some e =>
    rw [exec_eq, hc] at h
    cases h
    exact .inl ⟨e, rfl, rfl⟩
  | none =>
    rw [exec_of_passes hc hv] at h
    cases h
    exact .inr ⟨rfl, (commandWrites_err s i).2⟩

/-- R221: the one error a CRC command can raise is `E_LENGTH`. -/
theorem errcode_ne_integrity_of_checkCrc {i : Instr} {s t : State} {len n : Nat} {app : Bool} (hs : s.errcode = 0)
    (hv : verifyFails i s = false) (hc : preChecks i s = s.checkCrc len n app) (h : exec i s = .next t) :
    t.errcode ≠ 0x04 := by
  obtain ⟨e, he, ht⟩ | ⟨-, ht⟩ := exec_errcode hv h <;> rw [ht]
  · obtain ⟨-, rfl⟩ := State.checkCrc_some.mp (hc.symm.trans he)
    decide
  · rw [hs]
    decide

/-- Settles O60: the residues, and the only error of a CRC command. -/
theorem crcResidues : Obligations.CrcResidues := by
  refine ⟨crc16Upd_append_own_bytes, crc32Upd_append_own_bytes 0xFFFFFFFF, by decide, fun s t cont app len hs h => ?_⟩
  obtain h | h := h
  · exact errcode_ne_integrity_of_checkCrc hs rfl rfl h
  · exact errcode_ne_integrity_of_checkCrc hs rfl rfl h

end Sys2Proof.Machine
end

section
/-! PROOFS. Errors (R221 to R224): the causes of an error are what the checks before the writes and the verification after
them find, so each cause decides how a command ends. -/

namespace Sys2Proof.Machine

/-! ### The ends of a command (R111, R223, R224) -/

theorem exec_of_check_fails {i : Instr} {s : State} {e : ErrKind} (hc : preChecks i s = some e) :
    exec i s = .next (s.raise e) := by rw [exec_eq, hc, State.checked_some]

theorem exec_of_verify_fails {i : Instr} {s : State} (hc : preChecks i s = none) (hv : verifyFails i s = true) :
    exec i s = .next ((commandWrites i s).raise .integrity) := by
  rw [exec_eq, hc, State.checked_none, hv, if_pos rfl]

theorem exec_done {i : Instr} {s t : State} (h : exec i s = .next t) : t.done = true := by
  obtain ⟨e, rfl⟩ | ⟨-, rfl | ⟨e, rfl⟩⟩ := exec_cases h <;> rfl

/-- R64, R111: the engine's event completes the command in flight, and of what surrounds the CEB it takes only the event
itself. -/
theorem step_of_exec {i : Instr} {s t : State} {rest : List Event} (hbusy : s.busy = true)
    (hag : s.agenda = .engine :: rest) (hd : decode s.cmdCur = .ok i) (h : exec i s = .next t) :
    step s = .next (t.inWindow s.wib s.ieDone s.ieErr rest s.replies) := by
  rw [step_engine hag, State.engineTurn_legal (s := { s with agenda := rest }) hbusy hd]
  exact exec_inWindow _ _ _ _ _ h

/-- R86: the engine's event records an illegal word and takes nothing else but the event itself. -/
theorem step_of_illegal {s : State} {e : Illegal} {rest : List Event} (hbusy : s.busy = true)
    (hag : s.agenda = .engine :: rest) (hd : decode s.cmdCur = .error e) :
    step s = .next ({ s with agenda := rest }.raise .illcmd) := by
  rw [step_engine hag, State.engineTurn_illegal (s := { s with agenda := rest }) hbusy hd]

/-! ### The checks find the causes (R221, R222) -/

/-- R221: the causes count blocks in `bsc(c)`, the checks in the key type's block size; with a key the two agree. -/
theorem State.ragged_iff_bsc {s : State} {c : CtxSel} (hkv : (s.ctx c).kv = true) (len : Nat) :
    s.ragged c len = true ↔ len % (s.ctx c).bsc ≠ 0 := by rw [State.ragged_true, Ctx.bsc_of_kv hkv]

/-- R222: a keyed command's checks against a cause of `E_LENGTH` that they need to find only where there is a key. -/
theorem State.checkKeyed_some_iff_cause {s : State} {c : CtxSel} {len : Nat} {bad : Bool} {cause : Prop} {e : ErrKind}
    (hcause : (s.ctx c).kv = true → ((s.cfg.bufBytes < len ∨ bad = true) ↔ cause)) :
    s.checkKeyed c len bad = some e ↔
      ((s.ctx c).kv = false ∧ e = .state) ∨ (¬(s.ctx c).kv = false ∧ cause ∧ e = .length) := by
  rw [State.checkKeyed_some, Bool.not_eq_false]
  refine or_congr_right (and_congr_right fun hkv => ?_)
  rw [hcause hkv]

/-- R221, R222: the checks before the writes answer the first of `E_STATE` and `E_LENGTH` whose cause holds. -/
theorem preChecks_eq_some_iff {i : Instr} {s : State} {e : ErrKind} :
    preChecks i s = some e ↔
      (stateCause i s ∧ e = .state) ∨ (¬stateCause i s ∧ lengthCause i s ∧ e = .length) := by
  cases i with
  | nop => simp [preChecks, stateCause, lengthCause]
  | clrctx c => simp [preChecks, stateCause, lengthCause]
  | loadkey c kt => simp [preChecks, stateCause, lengthCause]
  | ecbEnc c len => exact State.checkKeyed_some_iff_cause fun hkv => or_congr_right (State.ragged_iff_bsc hkv len)
  | ecbDec c len => exact State.checkKeyed_some_iff_cause fun hkv => or_congr_right (State.ragged_iff_bsc hkv len)
  | cbcEnc c uiv ziv pad len =>
    exact State.checkKeyed_some_iff_cause fun hkv => by simp [lengthCause, State.ragged_iff_bsc hkv]
  | cbcDec c uiv ziv len =>
    exact State.checkKeyed_some_iff_cause fun hkv => or_congr_right (State.ragged_iff_bsc hkv len)
  | cbcMac c uiv ziv pad len =>
    exact State.checkKeyed_some_iff_cause fun hkv => by simp [lengthCause, State.ragged_iff_bsc hkv]
  | subk c => simp [preChecks, State.checkKey_some, stateCause, lengthCause]
  | cmac c uiv ziv vfy len => exact State.checkKeyed_some_iff_cause fun _ => by simp [lengthCause]
  | crc16 cont app len => simp [preChecks, State.checkCrc_some, stateCause, lengthCause]
  | crc32 cont app len => simp [preChecks, State.checkCrc_some, stateCause, lengthCause]

theorem preChecks_eq_none_of_no_cause {i : Instr} {s : State} (hs : ¬stateCause i s) (hl : ¬lengthCause i s) :
    preChecks i s = none :=
  Option.eq_none_iff_forall_ne_some.mpr fun e he => by
    obtain ⟨h, -⟩ | ⟨-, h, -⟩ := preChecks_eq_some_iff.mp he
    · exact hs h
    · exact hl h

/-- R189, R221: the verification fails exactly where `E_INTEGRITY` has its cause. -/
theorem verifyFails_iff_integrityCause {i : Instr} {s : State} : verifyFails i s = true ↔ integrityCause i s := by
  cases i with
  | cmac c uiv ziv vfy len => rw [verifyFails_cmac, Bool.and_eq_true, decide_eq_true_iff, integrityCause]
  | _ => exact Bool.false_eq_true.to_iff

/-! ### Each cause decides the end of the command (R221, R222) -/

section
variable {i : Instr} {s : State}

theorem exec_of_stateCause (hs : stateCause i s) : exec i s = .next (s.raise .state) :=
  exec_of_check_fails (preChecks_eq_some_iff.mpr (.inl ⟨hs, rfl⟩))

theorem exec_of_lengthCause (hs : ¬stateCause i s) (hl : lengthCause i s) : exec i s = .next (s.raise .length) :=
  exec_of_check_fails (preChecks_eq_some_iff.mpr (.inr ⟨hs, hl, rfl⟩))

theorem exec_of_integrityCause (hs : ¬stateCause i s) (hl : ¬lengthCause i s) (hi : integrityCause i s) :
    exec i s = .next ((commandWrites i s).raise .integrity) :=
  exec_of_verify_fails (preChecks_eq_none_of_no_cause hs hl) (verifyFails_iff_integrityCause.mpr hi)

theorem exec_of_no_cause (hs : ¬stateCause i s) (hl : ¬lengthCause i s) (hi : ¬integrityCause i s) :
    exec i s = .next (commandWrites i s).finish :=
  exec_of_passes (preChecks_eq_none_of_no_cause hs hl)
    (Bool.eq_false_iff.mpr (mt verifyFails_iff_integrityCause.mp hi))

end

/-- Settles O44: an illegal word is `E_ILLCMD`; for a command the clauses are its ends by cause. -/
theorem errorsHaveExactlyTheirCauses : Obligations.ErrorsHaveExactlyTheirCauses := by
  intro s rest hbusy hag herr hcode
  cases hd : decode s.cmdCur with
  | error e => exact ⟨_, step_of_illegal hbusy hag hd, rfl, rfl, rfl, rfl⟩
  | ok i =>
    obtain ⟨t, ht⟩ := exec_answers_next i s
    have hidle : t.busy = false := exec_busy ht
    have hdone : t.done = true := exec_done ht
    have ends {u : State} (hu : exec i s = .next u) : t = u := Host.Outcome.next.inj (ht.symm.trans hu)
    refine ⟨_, step_of_exec hbusy hag hd ht, hidle, hdone, fun hs => ?_, fun hs hl => ?_,
      fun hs hl hi => ?_, fun hs hl hi => ?_⟩
    · rw [ends (exec_of_stateCause hs)]
      exact ⟨rfl, rfl⟩
    · rw [ends (exec_of_lengthCause hs hl)]
      exact ⟨rfl, rfl⟩
    · rw [ends (exec_of_integrityCause hs hl hi)]
      exact ⟨rfl, rfl⟩
    · rw [ends (exec_of_no_cause hs hl hi)]
      obtain ⟨hwerr, hwcode⟩ := commandWrites_err s i
      exact ⟨hwerr.trans herr, hwcode.trans hcode⟩

/-! ### What an error leaves written (R223, R224) -/

/-- R223: only a failed check ends a command with `E_STATE` or `E_LENGTH`; no command ends with `E_ILLCMD`. -/
theorem eq_raise_of_errcode {i : Instr} {s t : State} (hcode : s.errcode = 0) (h : exec i s = .next t)
    (ht : t.errcode = 0x01 ∨ t.errcode = 0x02 ∨ t.errcode = 0x03) : ∃ e, t = s.raise e := by
  cases hc : preChecks i s with
  | some e => exact ⟨e, Host.Outcome.next.inj (h.symm.trans (exec_of_check_fails hc))⟩
  | none =>
    cases hv : verifyFails i s with
    | true =>
      cases h.symm.trans (exec_of_verify_fails hc hv)
      rw [State.raise_errcode] at ht
      exact absurd ht (by decide)
    | false =>
      cases h.symm.trans (exec_of_passes hc hv)
      rw [State.finish_errcode, (commandWrites_err s i).2, hcode] at ht
      exact absurd ht (by decide)

/-- Settles O45. -/
theorem failedChecksWriteNothing : Obligations.FailedChecksWriteNothing := by
  intro s t rest hbusy hag _ hcode hstep ht
  cases hd : decode s.cmdCur with
  | error e =>
    cases hstep.symm.trans (step_of_illegal hbusy hag hd)
    rfl
  | ok i =>
    obtain ⟨u, hu⟩ := exec_answers_next i s
    cases hstep.symm.trans (step_of_exec hbusy hag hd hu)
    obtain ⟨e, rfl⟩ := eq_raise_of_errcode hcode hu ht
    rfl

/-- Settles O41: VFY changes neither the checks nor the writes, only how the command ends. -/
theorem integrityFailureKeepsWrites : Obligations.IntegrityFailureKeepsWrites := by
  intro s t c uiv ziv len hkv hpos hle hmac h
  have hc (vfy : Bool) : preChecks (.cmac c uiv ziv vfy len) s = none :=
    State.checkKeyed_none.mpr ⟨hkv, hle, decide_eq_false (Nat.pos_iff_ne_zero.mp hpos)⟩
  have hv : verifyFails (.cmac c uiv ziv true len) s = true := verifyFails_iff_integrityCause.mpr ⟨rfl, hmac⟩
  rw [exec_of_passes (hc false) rfl] at h
  cases h
  exact exec_of_verify_fails (hc true) hv

end Sys2Proof.Machine
end

section
/-! PROOFS. The three ways of clearing (R113, R250 to R252): reset, `CLRCTX s` and `CLRCTX x`. -/

namespace Sys2Proof.Machine

/-! ### A command from the host's write to its completion (R64, R110, R111) -/

/-- R64, R110, R111: a command written to CMD while idle, with the engine next, is accepted and then completed. -/
theorem run_command {s t : State} {i : Instr} {rest : List Event} (hwf : i.wellFormed = true) (hidle : s.busy = false)
    (hag : s.agenda = .hostWrite 0x0000C (encode i) :: .engine :: rest)
    (hexec : exec i { s.accept (encode i) with agenda := rest, replies := .ack :: s.replies } = .next t) :
    core.run 2 s = .next t := by
  obtain ⟨haccept, -⟩ := acceptanceStartsCommand s (encode i) (.engine :: rest) hag
  obtain ⟨u, hstep, -, rfl⟩ := haccept hidle
  refine run_two hstep ?_
  have hd : decode (s.accept (encode i)).cmdCur = .ok i := decodeOfEncode i hwf
  rw [step_engine rfl]
  exact (State.engineTurn_legal (s := { s.accept (encode i) with agenda := rest, replies := _ }) rfl hd).trans hexec

/-! ### The comparison (R252) -/

theorem encode_clrctx_s : encode (.clrctx .s) = 0x00000001 := by decide

theorem encode_clrctx_x : encode (.clrctx .x) = 0x00000101 := by decide

/-- Settles O24: either reset is the reset of the whole CEB; idle, each CLRCTX runs from its acceptance, which clears
ERR and ERRCODE, to its completion; busy, neither is accepted. -/
theorem threeWaysOfClearing : Obligations.ThreeWaysOfClearing := by
  intro s rest
  obtain ⟨-, -, -, hrst, hsrst⟩ := resetGivesEveryElement
  refine ⟨fun v hv hag => hsrst s v rest hag hv, hrst s rest, fun hidle hag => ?_, fun hidle hag => ?_,
    fun hbusy cw _ hag => ?_⟩
  · rw [← encode_clrctx_s] at hag
    exact run_command rfl hidle hag (clrctxResult _).1
  · rw [← encode_clrctx_x] at hag
    exact run_command rfl hidle hag (clrctxResult _).2
  · exact (acceptanceStartsCommand s cw rest hag).2 hbusy

end Sys2Proof.Machine
end
